-- ==== Sys2Proof/Word.lean ====
section
/-! DEFINITION. Widths and the two plain containers of the model: a byte, a 16-bit word, four like things indexed by
two bits (the drive table, a set of checksum lanes), and a block of 512 bytes. Rules R11, R12, R21, R30, R36. -/

namespace Sys2Proof

/-- A byte: 8 bits, bit 7 the most significant (R11). -/
abbrev Byte := BitVec 8

/-- A 16-bit word, high byte first on the wire (R11, R70). -/
abbrev Word16 := BitVec 16

/-- A drive index 0..3 (R21): the two-bit selected-drive field. -/
abbrev DriveIx := BitVec 2

/-- A Block Store handle (R27): a name the host gives an opened file. -/
abbrev Handle := Nat

/-- Four like things: `df[0..3]` (R21), `lane[0..3]` and its companions (R36). -/
structure Quad (α : Type) where
  q0 : α
  q1 : α
  q2 : α
  q3 : α
  deriving DecidableEq, Repr

def Quad.get {α : Type} (q : Quad α) (i : BitVec 2) : α :=
  if i = 0 then q.q0 else if i = 1 then q.q1 else if i = 2 then q.q2 else q.q3

def Quad.set {α : Type} (q : Quad α) (i : BitVec 2) (v : α) : Quad α :=
  if i = 0 then { q with q0 := v } else if i = 1 then { q with q1 := v }
  else if i = 2 then { q with q2 := v } else { q with q3 := v }

def Quad.map {α β : Type} (f : α → β) (q : Quad α) : Quad β :=
  ⟨f q.q0, f q.q1, f q.q2, f q.q3⟩

def Quad.zipWith {α β γ : Type} (f : α → β → γ) (p : Quad α) (q : Quad β) : Quad γ :=
  ⟨f p.q0 q.q0, f p.q1 q.q1, f p.q2 q.q2, f p.q3 q.q3⟩

/-- The four in index order. -/
def Quad.toList {α : Type} (q : Quad α) : List α := [q.q0, q.q1, q.q2, q.q3]

def Quad.fill {α : Type} (v : α) : Quad α := ⟨v, v, v, v⟩

/-- 512 bytes: the Sector Buffer (R30), a STORE block (R64). The length stands with the bytes. -/
structure Block where
  bytes : List Byte
  size_eq : bytes.length = 512
  deriving DecidableEq, Repr

/-- The first 512 bytes of a list, with zero bytes where it is shorter. The model calls it on lists of 512. -/
def Block.ofList (l : List Byte) : Block :=
  ⟨(l ++ List.replicate 512 0).take 512, by
    rw [List.length_take, List.length_append, List.length_replicate]; omega⟩

def Block.zero : Block := ⟨List.replicate 512 0, List.length_replicate⟩

end Sys2Proof
end

