-- ==== Sys2Proof/Config.lean ====
section
/-! DEFINITION. What is fixed for the machine: the constants of R5, the spec's choices of R6, the open parameters of
R7, and the free values, which are opaque: nothing proves what they are. -/

namespace Sys2Proof.Config

/-! ## R5: fixed by the Amiga MFM format -/

def trackSize : Nat := 12668
def sectorCount : Nat := 11
def lastSector : BitVec 4 := 10
def headerSize : Nat := 64
def dataSize : Nat := 1024
def sectorSize : Nat := headerSize + dataSize
def gapSize : Nat := trackSize - sectorCount * (headerSize + dataSize)
def rawSector : Nat := 512
def syncCanon : Word16 := 0x4489
def buggySyncs : List Word16 := [0x0000, 0x8914, 0xA144]
/-- FILL: preamble, label, gap and clock-position filler. -/
def fill : Byte := 0xAA
/-- DATA_MASK: the data positions of a wire byte. -/
def dataMask : Byte := 0x55
def formatMarker : Byte := 0xFF
def hdrTrackLimit : Nat := 160
def lsBytes : Nat := 6
def opDrvstat : Byte := 0x10

/-! ## R6: the spec's own choices. PRESUMED, unsafe, log 13 -/

def cmdRdBit : Nat := 0
def cmdWrBit : Nat := 1
def cmdCountLow : Nat := 4
def cmdSelLow : Nat := 6
def stPresentBit : Nat := 0
def stWritableBit : Nat := 4
def linkIdleTx : Byte := 0x00
def lsActiveBit : Nat := 7
def hdrMinWords : Nat := 25
def dataMinWords : Nat := 516
def errHdrUnderrun : Byte := 20

/-! ## R7, R255, R262: open parameters -/

opaque errSeekPred : Fin 255
opaque errWritePred : Fin 255
/-- REPORT_MSG: some string (R262). -/
opaque reportMsg : String

/-- ERR_SEEK: some nonzero byte (R255), log 15. -/
def errSeek : Byte := BitVec.ofNat 8 (errSeekPred.val + 1)

/-- ERR_WRITE: some nonzero byte, perhaps equal to ERR_SEEK (R255), log 15. -/
def errWrite : Byte := BitVec.ofNat 8 (errWritePred.val + 1)

/-! ## Free values: what the controller and the Block Store answer, and what the spec calls unspecified -/

/-- The byte the controller answers in the n-th draw, where the state's `linkIn` names none (R14), log 3. -/
opaque controllerByte : Nat → Byte

/-- Result code of the n-th STORE event, where `storeIn` names none (R14, R64), log 5. -/
opaque storeOk : Nat → Bool

/-- The cursor a failed STORE event leaves (R67), log 6. -/
opaque storeCursor : Nat → Nat

/-- The bytes of a failed read, or the 512 target bytes after a failed write (R67), log 6. -/
opaque storeByte : Nat → Nat → Byte

/-- `track`, `sector_offset` and `tracks` of a slot after UNMOUNT (R41, R237), log 2. -/
opaque freeTrack : Nat → Byte
opaque freeSectorOffset : Nat → BitVec 4
opaque freeTracks : Nat → Byte

/-- `min(t, tracks - 1)` where `tracks` is 0, which R21 rules out while mounted, log 17. -/
opaque clampWithoutTracks : Byte → Byte

/-! ## The Block Store before anything is placed in it. DESIGN CHOICE, unsafe, log 7 -/

/-- What an image byte that nothing has written reads as. -/
def unlistedByte : Byte := 0x00

/-- The length of an image file that nothing describes: 255 tracks (R25, R69). -/
def unlistedSize : Nat := 255 * 5632

end Sys2Proof.Config
end

