-- ==== Sys2Proof/Syntax.lean ====
section
/-! DEFINITION. The 19 rows of spec/opcode_table.json, one constructor each. Three are decoded from command words
(R93), two are HOST events, the rest are operations of the engine that have no encoding (R93). -/

namespace Sys2Proof

inductive Instr where
  /-- RDTRK: `c1[0] = 1` (R232). -/
  | rdtrk (sel : DriveIx) (count : BitVec 2) (t : Byte)
  /-- WRTRK: `c1[1:0] = 10` (R233). -/
  | wrtrk (sel : DriveIx) (count : BitVec 2) (t : Byte)
  /-- IDLE: `c1[1:0] = 00`; SEL and TRACK are ignored (R234). -/
  | idle (count : BitVec 2)
  /-- DRVSTAT: the drive-status report (R235). -/
  | drvstat
  /-- MOUNT d, f, n, w (R236). -/
  | mount (d : DriveIx) (f : Handle) (n : Byte) (w : Bool)
  /-- UNMOUNT d (R237). -/
  | unmount (d : DriveIx)
  /-- HANDLE_CMD c1, c2 (R230). -/
  | handleCmd (c1 c2 : Byte)
  /-- SET_TRACK sel, t (R231). -/
  | setTrack (sel : DriveIx) (t : Byte)
  /-- READ_TRACK d (R170, R172 to R176). -/
  | readTrack (d : DriveIx)
  /-- LIVE_STATE (R171). -/
  | liveState
  /-- ENCODE_SECTOR of the Sector Buffer as sector s of track t under a sync word (R133). -/
  | encodeSector (s : BitVec 4) (t : Byte) (sync : Word16)
  /-- SEND_GAP (R136). -/
  | sendGap
  /-- WRITE_TRACK d (R190, R195 to R197). -/
  | writeTrack (d : DriveIx)
  /-- FIND_SYNC d (R191). -/
  | findSync (d : DriveIx)
  /-- HEADER_STAGE (R192). -/
  | headerStage
  /-- DECODE_HEADER (R137 to R139). -/
  | decodeHeader
  /-- DATA_STAGE d (R193). -/
  | dataStage (d : DriveIx)
  /-- DECODE_DATA (R140). -/
  | decodeData
  /-- COMMIT d (R194). -/
  | commit (d : DriveIx)
  deriving DecidableEq, Repr

end Sys2Proof
end

