-- ==== Sys2Proof/WellFormed.lean ====
section
/-! DEFINITION. Which instructions are well formed: the operand ranges that the widths do not already fix. -/

namespace Sys2Proof

/-- MOUNT wants a track count 1..255 (R236, U10); ENCODE_SECTOR a sector 0..10 (R133, U11). Every other operand's
range is its width. -/
def Instr.wf : Instr → Bool
  | .mount _ _ n _ => n != 0
  | .encodeSector s _ _ => decide (s ≤ Config.lastSector)
  | .rdtrk _ _ _ => true
  | .wrtrk _ _ _ => true
  | .idle _ => true
  | .drvstat => true
  | .unmount _ => true
  | .handleCmd _ _ => true
  | .setTrack _ _ => true
  | .readTrack _ => true
  | .liveState => true
  | .sendGap => true
  | .writeTrack _ => true
  | .findSync _ => true
  | .headerStage => true
  | .decodeHeader => true
  | .dataStage _ => true
  | .decodeData => true
  | .commit _ => true

end Sys2Proof
end

