-- ==== Sys2Proof/Decode.lean ====
section
/-! DEFINITION. The command format CMD (R91 to R94): decoding two bytes, and the encoder (R109). The positions of the
fields are the spec's choice D1, kept in Config. -/

namespace Sys2Proof

/-- RD flag of a status/command byte (R91). -/
def cmdRd (c1 : Byte) : Bool := c1.getLsbD Config.cmdRdBit

/-- WR flag (R91). -/
def cmdWr (c1 : Byte) : Bool := c1.getLsbD Config.cmdWrBit

/-- `c1[5:4]` (R92). -/
def cmdCount (c1 : Byte) : BitVec 2 := c1.extractLsb' Config.cmdCountLow 2

/-- `c1[7:6]` (R92). -/
def cmdSel (c1 : Byte) : DriveIx := c1.extractLsb' Config.cmdSelLow 2

/-- Every command byte pair is one of the three commands; read is tested first (R93, R94). -/
def decodeCommand (c1 c2 : Byte) : Instr :=
  if cmdRd c1 then .rdtrk (cmdSel c1) (cmdCount c1) c2
  else if cmdWr c1 then .wrtrk (cmdSel c1) (cmdCount c1) c2
  else .idle (cmdCount c1)

/-- Why bytes are no command. -/
inductive DecodeError where
  /-- A command is two bytes (R90); these were n. -/
  | wrongLength (n : Nat)
  deriving DecidableEq, Repr

/-- Bytes as a command: two bytes always decode (R94), other lengths are rejected by name. -/
def decode : List Byte → Except DecodeError Instr
  | [c1, c2] => .ok (decodeCommand c1 c2)
  | bs => .error (.wrongLength bs.length)

/-- The status/command byte with the given fields and zeros in the ignored bits (R91, R109). -/
def encodeC1 (rd wr : Bool) (count : BitVec 2) (sel : DriveIx) : Byte :=
  ((BitVec.ofBool rd).setWidth 8 <<< Config.cmdRdBit) ||| ((BitVec.ofBool wr).setWidth 8 <<< Config.cmdWrBit) |||
    (count.setWidth 8 <<< Config.cmdCountLow) ||| (sel.setWidth 8 <<< Config.cmdSelLow)

/-- The two bytes of a command; `none` for the operations that have no encoding (R93). -/
def encode : Instr → Option (List Byte)
  | .rdtrk sel count t => some [encodeC1 true false count sel, t]
  | .wrtrk sel count t => some [encodeC1 false true count sel, t]
  | .idle count => some [encodeC1 false false count 0, 0]
  | .drvstat => none
  | .mount _ _ _ _ => none
  | .unmount _ => none
  | .handleCmd _ _ => none
  | .setTrack _ _ => none
  | .readTrack _ => none
  | .liveState => none
  | .encodeSector _ _ _ => none
  | .sendGap => none
  | .writeTrack _ => none
  | .findSync _ => none
  | .headerStage => none
  | .decodeHeader => none
  | .dataStage _ => none
  | .decodeData => none
  | .commit _ => none

/-- The table's 16-bit command word as bytes: c1 is bits 15:8 and comes first (opcode_table.json, R70). -/
def commandBytes (w : Nat) : List Byte := [BitVec.ofNat 8 (w / 256), BitVec.ofNat 8 w]

/-- The instruction the decoder reads from a table word. A command is 16 bits: a longer row is no command. DRVSTAT's
word is outbound, "not decoded by it": as a command it reads as IDLE (log 14). -/
def decodeTableWord (nbits w : Nat) : Option Instr :=
  if nbits ≤ 16 then (decode (commandBytes w)).toOption else none

end Sys2Proof
end

