-- ==== Sys2Proof/Machine/State.lean ====
section
/-! DEFINITION. The machine's state as plain data, its reset, and the reasons a step can stop. R20 to R41, R280. -/

namespace Sys2Proof.Machine

/-- The control state (R32). -/
inductive Ctl where
  | idle | rdEntry | rdLoop | rdNext | wrEntry | seekSync | header | data | commit | wrReport | wrExit | stat
  deriving DecidableEq, Repr

/-- One drive slot (R21). `trackPrev = none` is TRACK_NONE (R23). -/
structure DriveState where
  track : Byte
  trackPrev : Option Byte
  sectorOffset : BitVec 4
  tracks : Byte
  status : Byte
  file : Option Handle
  deriving DecidableEq, Repr

/-- Image bytes by byte offset, in one canonical form (`Memory.wf`). -/
abbrev Memory := List Host.Cell

/-- A file of the Block Store behind one handle: its bytes, its length (R285), its cursor (R65) and the offsets of the
blocks written since the last good flush (R39 (c), R75). -/
structure StoreFile where
  cells : Memory
  size : Nat
  cursor : Nat
  unflushed : List Nat
  deriving DecidableEq, Repr

/-- A file that nothing has described. DESIGN CHOICE, unsafe, log 7. -/
def StoreFile.blank : StoreFile :=
  { cells := [], size := Config.unlistedSize, cursor := 0, unflushed := [] }

/-- The Block Store: files by handle, in one canonical form (`Store.wf`). -/
abbrev Store := List (Nat × StoreFile)

/-- What the Block Store answers to one event (R14, R64): its result code, and what a failed event leaves: the cursor,
and the bytes of a failed read or the target bytes of a failed write (R67). -/
structure StoreAnswer where
  ok : Bool
  cursor : Nat
  block : Block
  deriving DecidableEq, Repr

/-- What the surroundings present to the engine on the CMD and HOST ports (R9). -/
inductive InEvent where
  | command (c1 c2 : Byte)
  | mount (d : DriveIx) (f : Handle) (n : Byte) (w : Bool)
  | unmount (d : DriveIx)
  deriving DecidableEq, Repr

/-- What the engine does on the LINK, STORE, ERR and LED ports (R9). -/
inductive PortEvent where
  | linkSelect
  /-- One exchange: the byte sent, and the byte received where the engine looks at it (R13, U22). -/
  | xfer (tx : Byte) (rx : Option Byte)
  | linkDeselect
  | storeSeek (d : DriveIx) (off : Nat) (ok : Bool)
  | storeRead (d : DriveIx) (off : Nat) (ok : Bool)
  | storeWrite (d : DriveIx) (off : Nat) (ok : Bool)
  /-- The position answered, `none` where the tell failed. -/
  | storeTell (d : DriveIx) (p : Option Nat)
  | storeFlush (d : DriveIx) (ok : Bool)
  | report (msg : String) (code : Byte)
  | ledOn
  | ledOff
  deriving DecidableEq, Repr

/-- Everything the spec gives the machine (R20), then what stands for its surroundings (R39), then the model's own
fields (logs 2, 3, 5, 11, 18, 19). -/
structure State where
  /-- The four DriveState records (R21). -/
  df : Quad DriveState
  /-- The Sector Buffer (R30). -/
  buf : Block
  /-- `Error` (R31). -/
  error : Byte
  /-- `state` (R32). -/
  ctl : Ctl
  /-- R34. -/
  drives : BitVec 2
  /-- R35, from here to `off`. -/
  sel : DriveIx
  sector : BitVec 4
  lsStatus : Byte
  lsTrack : Byte
  lsSync : Word16
  lsLen : BitVec 14
  lsActive : Bool
  lt : Byte
  sync : Word16
  found : Bool
  off : Nat
  /-- R36, from here to `e`. -/
  hdrTrack : Byte
  hdrSector : Byte
  b : Quad Byte
  lane : Quad Byte
  cks : Quad Byte
  o : Quad Byte
  e : Quad Byte
  /-- The received checksum's odd and even halves (R137, R140), log 20. -/
  wo : Quad Byte
  we : Quad Byte
  /-- R39 (a). -/
  linkSelected : Bool
  /-- R39 (e). -/
  led : Bool
  /-- The Block Store: images, cursors, unflushed writes (R39 (b), (c)). -/
  store : Store
  /-- CMD and HOST events not yet accepted, first first. -/
  events : List InEvent
  /-- What the controller will answer in the receiving exchanges (R14, R39 (d)). -/
  linkIn : List Byte
  /-- What the Block Store will answer (R14). -/
  storeIn : List StoreAnswer
  /-- The counter that free values are applied to. -/
  draws : Nat
  /-- Every port event so far, in order (R74). -/
  trace : List PortEvent
  /-- What the last true/false operation returned; `none` while it polls. -/
  ret : Option Bool
  /-- DATA_STAGE has sought and now polls (R193, R197). -/
  seekDone : Bool
  deriving DecidableEq, Repr

/-- The engine has no fault that stops it: "none are fatal to the process" (R250). Every error of R251 is a next state.
So no constructor, and no one raises one. Safe. Log 16. -/
inductive Fault where
  deriving DecidableEq, Repr

/-- Steps outside the spec's preconditions. All safe: a claim about such a step cannot be proved. -/
inductive Refusal where
  /-- The form the host asks for; no arm of exec raises it. Safe. -/
  | notModelled (mnemonic : String)
  /-- Raised by RDTRK, WRTRK, READ_TRACK, WRITE_TRACK, DATA_STAGE, COMMIT where the slot holds no image (U1, R170,
  R190). Safe. -/
  | noImage
  /-- Raised by a CMD or HOST event while `state` is not IDLE (R290, U10). Safe. -/
  | busy
  /-- Raised by MOUNT with a track count of 0 (U10). Safe. -/
  | badTrackCount
  /-- Raised by ENCODE_SECTOR, and READ_TRACK about to call it, with a sector above 10 (U11). Safe. -/
  | sectorOutOfRange
  /-- Raised by an operation that exchanges bytes inside its caller's session while no session is open: "LinkXfer is
  legal only while selected" (R61). Safe. -/
  | linkNotSelected
  /-- Raised by an operation that opens a session, or emits a STORE or LED event, while a session is open: "sessions
  never nest" (R62, R296). Safe. -/
  | linkBusy
  deriving DecidableEq, Repr

/-- A slot at power-on (R41): empty. `track`, `sectorOffset`, `tracks`: DESIGN CHOICE, unsafe, log 1. -/
def DriveState.powerOn : DriveState :=
  { track := 0, trackPrev := none, sectorOffset := 0, tracks := 0, status := 0x00, file := none }

/-- Power-on (R41, R280). The Sector Buffer, `drives` and the working registers are unspecified there; the values here
are DESIGN CHOICE, unsafe, log 1. -/
def State.reset : State where
  df := Quad.fill DriveState.powerOn
  buf := Block.zero
  error := 0
  ctl := .idle
  drives := 0
  sel := 0
  sector := 0
  lsStatus := 0
  lsTrack := 0
  lsSync := 0
  lsLen := 0
  lsActive := false
  lt := 0
  sync := 0
  found := false
  off := 0
  hdrTrack := 0
  hdrSector := 0
  b := Quad.fill 0
  lane := Quad.fill 0
  cks := Quad.fill 0
  o := Quad.fill 0
  e := Quad.fill 0
  wo := Quad.fill 0
  we := Quad.fill 0
  linkSelected := false
  led := false
  store := []
  events := []
  linkIn := []
  storeIn := []
  draws := 0
  trace := []
  ret := none
  seekDone := false

end Sys2Proof.Machine
end

