-- ==== Sys2Proof/Machine/Mfm.lean ====
section
/-! DEFINITION. MFM arithmetic and wire formats: bit functions, checksum lanes, the sector and gap as sent. R99 to
R104, R130 to R136. -/

namespace Sys2Proof.Machine

/-- `odd(v) = (v >> 1) & 0x55` (R131). -/
def odd (v : Byte) : Byte := (v >>> 1) &&& Config.dataMask

/-- `even(v) = v & 0x55` (R131). -/
def even (v : Byte) : Byte := v &&& Config.dataMask

/-- `merge(wo, we) = ((wo & 0x55) << 1) | (we & 0x55)` (R131). -/
def merge (wo we : Byte) : Byte := ((wo &&& Config.dataMask) <<< 1) ||| (we &&& Config.dataMask)

/-- Byte `i` of a received group. -/
def byteAt (bs : List Byte) (i : Nat) : Byte := bs.getD i 0

/-- Four consecutive bytes of a received group. -/
def quadAt (bs : List Byte) (i : Nat) : Quad Byte :=
  ⟨byteAt bs i, byteAt bs (i + 1), byteAt bs (i + 2), byteAt bs (i + 3)⟩

/-- Byte `i` of a sequence goes into lane `i mod 4` by exclusive or (R132). -/
def foldLanes : Quad Byte → Nat → List Byte → Quad Byte
  | acc, _, [] => acc
  | acc, i, x :: rest =>
    let k := BitVec.ofNat 2 i
    foldLanes (acc.set k (acc.get k ^^^ x)) (i + 1) rest

/-- The lanes with their clock positions cleared, as compared on decode (R137, R140). -/
def maskLanes (q : Quad Byte) : Quad Byte := q.map (· &&& Config.dataMask)

/-- Header info: format marker, track, sector, sectors-to-gap (R102). -/
def headerInfo (s : BitVec 4) (t : Byte) : Quad Byte :=
  ⟨Config.formatMarker, t, s.setWidth 8, 11 - s.setWidth 8⟩

/-- `h[k] = odd(info[k]) ^ even(info[k])` (R134). -/
def headerLanes (s : BitVec 4) (t : Byte) : Quad Byte := (headerInfo s t).map fun v : Byte => odd v ^^^ even v

/-- `l[k]`: the lanes of `buf[i] ^ (buf[i] >> 1)` (R135). -/
def dataLanes (buf : Block) : Quad Byte :=
  foldLanes (Quad.fill 0) 0 (buf.bytes.map fun x : Byte => x ^^^ (x >>> 1))

/-- A checksum field as sent: four filler bytes, then the lanes with ones in the clock positions (R103). -/
def checksumField (q : Quad Byte) : List Byte :=
  List.replicate 4 Config.fill ++ (q.map (· ||| Config.fill)).toList

/-- A 16-bit word as two wire bytes, high byte first (R70). -/
def wordBytes (w : Word16) : List Byte := [w.extractLsb' 8 8, w.extractLsb' 0 8]

/-- The 64 wire bytes before the payload (R100). -/
def sectorHeader (buf : Block) (s : BitVec 4) (t : Byte) (sync : Word16) : List Byte :=
  List.replicate 4 Config.fill ++ wordBytes sync ++ wordBytes sync ++
    ((headerInfo s t).map odd).toList ++ ((headerInfo s t).map even).toList ++
    List.replicate 32 Config.fill ++ checksumField (headerLanes s t) ++ checksumField (dataLanes buf)

/-- The 1024 payload bytes: odd pass, even pass (R100). -/
def sectorPayload (buf : Block) : List Byte :=
  buf.bytes.map (fun x : Byte => (x >>> 1) ||| Config.fill) ++ buf.bytes.map (· ||| Config.fill)

/-- The 1088 bytes of one sector as sent (R100, R133). -/
def sectorBytes (buf : Block) (s : BitVec 4) (t : Byte) (sync : Word16) : List Byte :=
  sectorHeader buf s t sync ++ sectorPayload buf

/-- The 700 gap bytes (R101, R136). -/
def gapBytes : List Byte := List.replicate Config.gapSize Config.fill

/-- The 512 bytes an odd pass and an even pass carry (R140). -/
def mergePasses (oddPass evenPass : List Byte) : Block := Block.ofList (List.zipWith merge oddPass evenPass)

end Sys2Proof.Machine
end

