-- ==== Sys2Proof/Machine/Operands.lean ====
section
/-! DEFINITION. Operand forms: fields of the live-state record, the address of a sector, the track clamp, the sync
substitution, the drive-status report. R68, R95 to R97, R173, R231. -/

namespace Sys2Proof.Machine

/-- Two bytes as a word, the first the high byte (R70). -/
def wordOf (hi lo : Byte) : Word16 := (hi.setWidth 16 <<< 8) ||| lo.setWidth 16

/-- `ls_len = ((ls[4] & 0x3F) << 8) | ls[5]` (R96). -/
def lengthOf (hi lo : Byte) : BitVec 14 := ((hi &&& 0x3F).setWidth 14 <<< 8) ||| lo.setWidth 14

/-- `ls_active = ls[4][7]` (R96). -/
def activeOf (hi : Byte) : Bool := hi.getLsbD Config.lsActiveBit

/-- `SectorOffset(t, s) = (t * 11 + s) * 512` (R68). -/
def byteOffset (t s : Nat) : Nat := (t * Config.sectorCount + s) * Config.rawSector

/-- `min(t, tracks - 1)` (R231). With `tracks = 0`, which no mounted slot has (R21), the value is free (log 17). -/
def clampTrack (t tracks : Byte) : Byte :=
  if tracks = 0 then Config.clampWithoutTracks t else if t < tracks then t else tracks - 1

/-- The buggy-loader syncs become 0x4489, every other requested sync is honoured (R106, R173). -/
def substituteSync (w : Word16) : Word16 := if w ∈ Config.buggySyncs then Config.syncCanon else w

/-- `status` of a slot mounted writable or not (R236). -/
def mountStatus (w : Bool) : Byte :=
  (1#8 <<< Config.stPresentBit) ||| (if w then 1#8 <<< Config.stWritableBit else 0)

/-- The drive-status byte: the four statuses shifted by their drive index (R97). -/
def statusReport (df : Quad DriveState) : Byte :=
  df.q0.status ||| (df.q1.status <<< 1) ||| (df.q2.status <<< 2) ||| (df.q3.status <<< 3)

end Sys2Proof.Machine
end

