-- ==== Sys2Proof/Machine/Flags.lean ====
section
/-! DEFINITION. The flags that steer the engine (R37), and the four header field checks (R102, R138). -/

namespace Sys2Proof.Machine

/-- present: `status[0]` (R26). -/
def DriveState.present (r : DriveState) : Bool := r.status.getLsbD Config.stPresentBit

/-- writable: `status[4]` (R26). -/
def DriveState.writable (r : DriveState) : Bool := r.status.getLsbD Config.stWritableBit

/-- track-cache valid: `track_prev = track`; TRACK_NONE equals no track (R23, R37). -/
def DriveState.cacheValid (r : DriveState) : Bool := decide (r.trackPrev = some r.track)

/-- RD request of the live state (R37, R95). -/
def State.rdRequest (s : State) : Bool := cmdRd s.lsStatus

/-- WR request of the live state (R37, R95). -/
def State.wrRequest (s : State) : Bool := cmdWr s.lsStatus

/-- The first header field check that fails, in the order marker, track, sector, gap count, as its code (R138). -/
def headerFieldError (info : Quad Byte) : Option Byte :=
  if info.q0 ≠ Config.formatMarker then some 22
  else if Config.hdrTrackLimit ≤ info.q1.toNat then some 23
  else if 10 < info.q2.toNat then some 24
  else if info.q3 = 0 ∨ 11 < info.q3.toNat then some 25
  else none

end Sys2Proof.Machine
end

