-- ==== Sys2Proof/Machine/Memory.lean ====
section
/-! DEFINITION. The Block Store as memory: reading and writing one 512-byte block of an image, and one file of the
store, each in a canonical form. R60, R64, R68, R71, R72. -/

namespace Sys2Proof.Machine

/-- Addresses strictly rising, and no entry equal to what an unlisted address reads as. -/
abbrev Memory.wf (m : Memory) : Prop :=
  m.Pairwise (fun x y => x.1 < y.1) ∧ ∀ c ∈ m, c.2 ≠ Config.unlistedByte

/-- One image byte. -/
def cellAt : Memory → Nat → Byte
  | [], _ => Config.unlistedByte
  | (k, v) :: rest, a => if k = a then v else cellAt rest a

/-- The 512 image bytes from a byte offset on. -/
def readCells (m : Memory) (off : Nat) : Block :=
  Block.ofList ((List.range 512).map fun i => cellAt m (off + i))

/-- Bytes at consecutive addresses, without those an unlisted address reads as anyway. -/
def cellsFrom : Nat → List Byte → Memory
  | _, [] => []
  | a, v :: rest =>
    if v = Config.unlistedByte then cellsFrom (a + 1) rest else (a, v) :: cellsFrom (a + 1) rest

/-- The image after the 512 bytes from `off` on are replaced, as far as they lie inside a file of length `size`. -/
def writeCells (m : Memory) (size off : Nat) (blk : Block) : Memory :=
  m.filter (fun c => decide (c.1 < off)) ++
    (cellsFrom off blk.bytes).filter (fun c => decide (c.1 < size)) ++
    m.filter (fun c => decide (off + 512 ≤ c.1))

/-- A file in canonical form: its bytes are, and lie inside its length. -/
abbrev StoreFile.wf (f : StoreFile) : Prop := Memory.wf f.cells ∧ ∀ c ∈ f.cells, c.1 < f.size

/-- Handles strictly rising, no entry equal to the blank file, every file in canonical form. -/
abbrev Store.wf (st : Store) : Prop :=
  st.Pairwise (fun x y => x.1 < y.1) ∧ ∀ x ∈ st, x.2 ≠ StoreFile.blank ∧ x.2.wf

/-- The file behind a handle. -/
def fileAt : Store → Nat → StoreFile
  | [], _ => StoreFile.blank
  | (k, f) :: rest, h => if k = h then f else fileAt rest h

/-- The store with one file replaced; a file that reads as the blank one is not listed. -/
def setFile (st : Store) (h : Nat) (f : StoreFile) : Store :=
  st.filter (fun x => decide (x.1 < h)) ++ (if f = StoreFile.blank then [] else [(h, f)]) ++
    st.filter (fun x => decide (h < x.1))

/-- An access the file can serve: a whole aligned block inside it (R71, R285, U12). What a misaligned one would do is
left open (R71); here it fails. DESIGN CHOICE, unsafe, log 8. -/
def StoreFile.serves (f : StoreFile) : Bool :=
  decide (f.cursor % 512 = 0) && decide (f.cursor + 512 ≤ f.size)

/-- Byte `a` of the image behind handle `h`. -/
def imageByte (s : State) (h : Handle) (a : Nat) : Byte := cellAt (fileAt s.store h).cells a

end Sys2Proof.Machine
end

