-- ==== Sys2Proof/Machine/Ops.lean ====
section
/-! DEFINITION. The named operations every meaning is built from: the drive table, the LINK, STORE, ERR and LED ports,
raising an error and reporting it. R13, R61 to R67, R195, R260 to R262, R272. -/

namespace Sys2Proof.Machine

/-- What a meaning answers. -/
abbrev Result := Host.Outcome State Fault Refusal

/-! ## The drive table -/

/-- `df[d]` (R21). -/
def State.drive (s : State) (d : DriveIx) : DriveState := s.df.get d

/-- `df[d] <- r`; no other record is touched (R21). -/
def setDrive (d : DriveIx) (r : DriveState) (s : State) : State := { s with df := s.df.set d r }

/-- The handle of a mounted slot: present, with a file (R27, R232). -/
def State.image? (s : State) (d : DriveIx) : Option Handle :=
  if (s.drive d).present then (s.drive d).file else none

/-! ## The LINK port (R61, R62) -/

/-- `LinkSelect()`. -/
def linkSelect (s : State) : State := { s with linkSelected := true, trace := s.trace ++ [.linkSelect] }

/-- `LinkDeselect()`. -/
def linkDeselect (s : State) : State := { s with linkSelected := false, trace := s.trace ++ [.linkDeselect] }

/-- `Send(b)` for each byte in turn; what is received is discarded (R13, U22, log 4). -/
def send (bs : List Byte) (s : State) : State :=
  { s with trace := s.trace ++ bs.map fun b => PortEvent.xfer b none }

/-- The next n answers of the controller: those it is given to say, then free values (R14, log 3). -/
def answers : Nat → List Byte → Nat → List Byte
  | 0, _, _ => []
  | n + 1, b :: q, k => b :: answers n q (k + 1)
  | n + 1, [], k => Config.controllerByte k :: answers n [] (k + 1)

/-- The bytes `Recv()` gives when done n times. -/
def received (n : Nat) (s : State) : List Byte := answers n s.linkIn s.draws

/-- `Recv()` n times: n exchanges sending LINK_IDLE_TX (R13, R63). Each byte is gone from the supply (R72). -/
def recv (n : Nat) (s : State) : State :=
  { s with
    linkIn := s.linkIn.drop n
    draws := s.draws + n
    trace := s.trace ++ (received n s).map fun b => PortEvent.xfer Config.linkIdleTx (some b) }

/-! ## The STORE port (R64 to R67, R71) -/

/-- An answer where none is given: every part free (log 5). -/
def freeAnswer (k : Nat) : StoreAnswer :=
  { ok := Config.storeOk k
    cursor := Config.storeCursor k
    block := Block.ofList ((List.range 512).map (Config.storeByte k)) }

/-- The Block Store's answer to the next event. -/
def nextAnswer (s : State) : StoreAnswer :=
  match s.storeIn with
  | a :: _ => a
  | [] => freeAnswer s.draws

/-- The answer is used up. -/
def drawAnswer (s : State) : State := { s with storeIn := s.storeIn.tail, draws := s.draws + 1 }

/-- Result code of a seek: the store says ok and the offset lies in the file (U12, log 8). -/
def seekOk (h : Handle) (off : Nat) (s : State) : Bool :=
  (nextAnswer s).ok && decide (off ≤ (fileAt s.store h).size)

/-- Result code of a read or write at the cursor. -/
def accessOk (h : Handle) (s : State) : Bool := (nextAnswer s).ok && (fileAt s.store h).serves

/-- `StoreSeek(d, off)`. -/
def storeSeek (d : DriveIx) (h : Handle) (off : Nat) (s : State) : State :=
  let f := fileAt s.store h
  { drawAnswer s with
    store := setFile s.store h { f with cursor := if seekOk h off s then off else (nextAnswer s).cursor }
    trace := s.trace ++ [.storeSeek d off (seekOk h off s)] }

/-- The block `StoreRead(d)` gives: the image bytes at the cursor, or any value after a failure (R64, R67). -/
def readData (h : Handle) (s : State) : Block :=
  let f := fileAt s.store h
  if accessOk h s then readCells f.cells f.cursor else (nextAnswer s).block

/-- `StoreRead(d)` as it acts on the store. -/
def storeRead (d : DriveIx) (h : Handle) (s : State) : State :=
  let f := fileAt s.store h
  { drawAnswer s with
    store := setFile s.store h { f with cursor := if accessOk h s then f.cursor + 512 else (nextAnswer s).cursor }
    trace := s.trace ++ [.storeRead d f.cursor (accessOk h s)] }

/-- `StoreWrite(d, blk)`. After a failure the 512 target bytes and the cursor hold any value (R67). -/
def storeWrite (d : DriveIx) (h : Handle) (blk : Block) (s : State) : State :=
  let f := fileAt s.store h
  { drawAnswer s with
    store := setFile s.store h
      { f with
        cells := writeCells f.cells f.size f.cursor (if accessOk h s then blk else (nextAnswer s).block)
        cursor := if accessOk h s then f.cursor + 512 else (nextAnswer s).cursor
        unflushed := f.unflushed ++ [f.cursor] }
    trace := s.trace ++ [.storeWrite d f.cursor (accessOk h s)] }

/-- The position `StoreTell(d)` gives; none after a failure (R64). -/
def tellPos (h : Handle) (s : State) : Option Nat :=
  if (nextAnswer s).ok then some (fileAt s.store h).cursor else none

/-- `StoreTell(d)` as it acts on the store: nothing, unless it fails (R64, R67). -/
def storeTell (d : DriveIx) (h : Handle) (s : State) : State :=
  let f := fileAt s.store h
  { drawAnswer s with
    store := setFile s.store h { f with cursor := if (nextAnswer s).ok then f.cursor else (nextAnswer s).cursor }
    trace := s.trace ++ [.storeTell d (tellPos h s)] }

/-- `StoreFlush(d)`: when ok, every earlier write is durable (R64, R75); a failed flush promises nothing (log 23). -/
def storeFlush (d : DriveIx) (h : Handle) (s : State) : State :=
  let f := fileAt s.store h
  { drawAnswer s with
    store := setFile s.store h
      { f with
        unflushed := if (nextAnswer s).ok then [] else f.unflushed
        cursor := if (nextAnswer s).ok then f.cursor else (nextAnswer s).cursor }
    trace := s.trace ++ [.storeFlush d (nextAnswer s).ok] }

/-! ## Errors: the analogue of taking an exception and returning from it (R260, R261) -/

/-- `raise Err(c)`: `Error <- c`, nothing is saved, the stage returns false (R260). -/
def raiseErr (c : Byte) (s : State) : State := { s with error := c, ret := some false }

/-- WR_REPORT: a nonzero `Error` is reported and cleared, then the hunt goes on (R195, R261, R262). -/
def returnFromErr (s : State) : State :=
  { s with
    error := 0
    ctl := .seekSync
    trace := s.trace ++ (if s.error = 0 then [] else [.report Config.reportMsg s.error]) }

/-! ## The LED port (R272) -/

/-- `LedOn()`. -/
def ledOn (s : State) : State := { s with led := true, trace := s.trace ++ [.ledOn] }

/-- `LedOff()`. -/
def ledOff (s : State) : State := { s with led := false, trace := s.trace ++ [.ledOff] }

/-- The closing half of the Dispatcher's bracket: a track operation that has come back to IDLE turns the LED off
(R232, R233, R238). -/
def closeBracket (r : Result) : Result :=
  match r with
  | .next s => .next (if s.ctl = .idle then ledOff s else s)
  | .fault e => .fault e
  | .refused e => .refused e

/-- A CMD or HOST event as an instruction: the command bytes decoded (R230), the HOST events as they are. -/
def fetchEvent : InEvent → Instr
  | .command c1 c2 => decodeCommand c1 c2
  | .mount d f n w => .mount d f n w
  | .unmount d => .unmount d

/-- The CMD event made of a table word (opcode_table.json). -/
def commandEvent (w : Nat) : InEvent := .command (byteAt (commandBytes w) 0) (byteAt (commandBytes w) 1)

end Sys2Proof.Machine
end

