-- ==== Sys2Proof/Machine/Codec.lean ====
section
/-! DEFINITION. The MFM codec: ENCODE_SECTOR, SEND_GAP, DECODE_HEADER, DECODE_DATA. R133 to R142. -/

namespace Sys2Proof.Machine

/-- Are the next two bytes to be received 0x44, 0x89? They are compared whole (R137, R142, R191). -/
def syncNext (s : State) : Bool := decide (received 2 s = wordBytes Config.syncCanon)

/-- The eight header info bytes received, merged, and summed into the lanes (R137). -/
def receiveInfo (s : State) : State :=
  { recv 8 s with
    o := quadAt (received 8 s) 0
    e := quadAt (received 8 s) 4
    b := Quad.zipWith merge (quadAt (received 8 s) 0) (quadAt (received 8 s) 4)
    lane := Quad.zipWith (· ^^^ ·) (quadAt (received 8 s) 0) (quadAt (received 8 s) 4) }

/-- `hdr_track` and `hdr_sector`, written once the field checks have passed, so also when the checksum then fails (D29,
log 24). -/
def takeHeader (s : State) : State := { s with hdrTrack := s.b.q1, hdrSector := s.b.q2 }

/-- The 32 label bytes, folded into the lanes, which are then masked (R137, R139). -/
def receiveLabel (s : State) : State :=
  { recv 32 s with lane := maskLanes (foldLanes s.lane 0 (received 32 s)) }

/-- The eight bytes of a checksum field, merged (R103, R137, R140). -/
def receiveChecksum (s : State) : State :=
  { recv 8 s with
    wo := quadAt (received 8 s) 0
    we := quadAt (received 8 s) 4
    cks := Quad.zipWith merge (quadAt (received 8 s) 0) (quadAt (received 8 s) 4) }

/-- Odd pass and even pass of the payload: the lanes start at zero and are masked at the end, the Sector Buffer is
overwritten (R140). -/
def receivePayload (s : State) : State :=
  { recv 1024 s with
    lane := maskLanes
      (foldLanes (foldLanes (Quad.fill 0) 0 ((received 1024 s).take 512)) 0 ((received 1024 s).drop 512))
    buf := mergePasses ((received 1024 s).take 512) ((received 1024 s).drop 512) }

/-- The received checksum against the computed lanes, all bits of all lanes (R139, R140). -/
def checksumVerdict (code : Byte) (s : State) : State :=
  if s.cks = s.lane then { s with ret := some true } else raiseErr code s

/-- DECODE_HEADER_BODY after the header info: the field checks in order, the first failure deciding and ending the
reception (R138, D26); then label, checksum and comparison. -/
def headerChecks (s : State) : State :=
  match headerFieldError s.b with
  | some c => raiseErr c s
  | none => checksumVerdict 26 (receiveChecksum (receiveLabel (takeHeader s)))

/-- DECODE_HEADER_BODY (R137). -/
def decodeHeaderBody (s : State) : State :=
  if syncNext s then headerChecks (receiveInfo (recv 2 s)) else raiseErr 21 (recv 2 s)

/-- DECODE_DATA_BODY (R140): checksum, odd pass, even pass; the comparison last. -/
def decodeDataBody (s : State) : State := checksumVerdict 29 (receivePayload (receiveChecksum s))

/-- ENCODE_SECTOR (R133): 1088 sends inside the caller's session, no engine state written. -/
def execEncodeSector (sec : BitVec 4) (t : Byte) (sync : Word16) (s : State) : Result :=
  if Config.lastSector < sec then .refused .sectorOutOfRange
  else if s.linkSelected = false then .refused .linkNotSelected
  else .next (send (sectorBytes s.buf sec t sync) s)

/-- SEND_GAP (R136): 700 sends of 0xAA inside the caller's session. -/
def execSendGap (s : State) : Result :=
  if s.linkSelected = false then .refused .linkNotSelected else .next (send gapBytes s)

/-- DECODE_HEADER (R137), inside the session HEADER_STAGE has opened. -/
def execDecodeHeader (s : State) : Result :=
  if s.linkSelected = false then .refused .linkNotSelected else .next (decodeHeaderBody s)

/-- DECODE_DATA (R140), inside the session DATA_STAGE has opened. -/
def execDecodeData (s : State) : Result :=
  if s.linkSelected = false then .refused .linkNotSelected else .next (decodeDataBody s)

end Sys2Proof.Machine
end

