-- ==== Sys2Proof/Machine/Reader.lean ====
section
/-! DEFINITION. The Track Reader: READ_TRACK and LIVE_STATE. R170 to R177. READ_TRACK is one transition of its control
flow (R176) at a time: its loop has no bound (R294, log 10). -/

namespace Sys2Proof.Machine

/-- LIVE_STATE (R171): six exchanges, always, into the ls registers. -/
def readLiveState (s : State) : State :=
  { recv 6 s with
    lsStatus := byteAt (received 6 s) 0
    lsTrack := byteAt (received 6 s) 1
    lsSync := wordOf (byteAt (received 6 s) 2) (byteAt (received 6 s) 3)
    lsLen := lengthOf (byteAt (received 6 s) 4) (byteAt (received 6 s) 5)
    lsActive := activeOf (byteAt (received 6 s) 4) }

/-- The opening of every data session: select, then the live-state read (R63, R105, D13). -/
def openData (s : State) : State := readLiveState (linkSelect s)

/-- RD_ENTRY (R170): on a track change sector 0, otherwise the cached sector; a seek either way, its result ignored.
`sel` is not written: READ_TRACK d executed on its own with d other than `sel` leaves the following steps on drive `sel`.
DESIGN CHOICE, log 29. -/
def readEntry (d : DriveIx) (h : Handle) (s : State) : State :=
  if (s.drive d).cacheValid then
    { storeSeek d h (byteOffset (s.drive d).track.toNat (s.drive d).sectorOffset.toNat) s with
      sector := (s.drive d).sectorOffset, ctl := .rdLoop }
  else
    { storeSeek d h (byteOffset (s.drive d).track.toNat 0)
        (setDrive d { s.drive d with trackPrev := some (s.drive d).track, sectorOffset := 0 } s) with
      sector := 0, ctl := .rdLoop }

/-- `buf <- StoreRead(d)`, result code ignored (R172). -/
def fillBuffer (d : DriveIx) (h : Handle) (s : State) : State := { storeRead d h s with buf := readData h s }

/-- The live track clamped, the sync substituted (R173). -/
def chooseTrackSync (d : DriveIx) (s : State) : State :=
  { s with lt := clampTrack s.lsTrack (s.drive d).tracks, sync := substituteSync s.lsSync }

/-- RD_LOOP up to the decision (R172): the block is read first, then a data session is opened. -/
def readPoll (d : DriveIx) (h : Handle) (s : State) : State := chooseTrackSync d (openData (fillBuffer d h s))

/-- Does the live state just read still ask for the track being served (R172, R174)? -/
def wantsTrack (d : DriveIx) (s : State) : Bool := decide (s.lt = (s.drive d).track) && s.rdRequest

/-- What RD_LOOP sends for its sector: the sector, after sector 10 the gap (R172). -/
def servedBytes (s : State) : List Byte :=
  sectorBytes s.buf s.sector s.lt s.sync ++ if s.sector = Config.lastSector then gapBytes else []

/-- RD_LOOP from the decision on (R172), in the session already open. -/
def readServe (d : DriveIx) (s : State) : State :=
  { linkDeselect (if wantsTrack d s then send (servedBytes s) s else s) with ctl := .rdNext }

/-- RD_NEXT after a sector was sent (R175): advance, after sector 10 wrap and reseek. -/
def readAdvance (d : DriveIx) (h : Handle) (s : State) : State :=
  if s.sector + 1 = 11 then
    setDrive d { s.drive d with sectorOffset := 0 }
      { storeSeek d h (byteOffset (s.drive d).track.toNat 0) s with sector := 0, ctl := .rdLoop }
  else
    setDrive d { s.drive d with sectorOffset := s.sector + 1 } { s with sector := s.sector + 1, ctl := .rdLoop }

/-- RD_NEXT (R174, R175): the two exits, then the advance. -/
def readNext (d : DriveIx) (h : Handle) (s : State) : State :=
  if wantsTrack d s then readAdvance d h s else { s with ctl := .idle }

/-- READ_TRACK (R170, R176): the transition of the phase `state` names; outside the reader's phases, its entry. -/
def execReadTrack (d : DriveIx) (s : State) : Result :=
  if s.linkSelected then .refused .linkBusy
  else
    match s.image? d with
    | none => .refused .noImage
    | some h =>
      match s.ctl with
      | .rdLoop =>
        if wantsTrack d (readPoll d h s) && decide (Config.lastSector < s.sector) then .refused .sectorOutOfRange
        else .next (readServe d (readPoll d h s))
      | .rdNext => .next (readNext d h s)
      | _ => .next (readEntry d h s)

/-- LIVE_STATE (R171), inside the session its caller has opened. -/
def execLiveState (s : State) : Result :=
  if s.linkSelected = false then .refused .linkNotSelected else .next (readLiveState s)

end Sys2Proof.Machine
end

