-- ==== Sys2Proof/Machine/Writer.lean ====
section
/-! DEFINITION. The Track Writer: WRITE_TRACK and its stages. R190 to R198, R260 to R263. A stage that polls does one
session at a time and leaves `ret = none` while it must poll again (logs 10, 18). -/

namespace Sys2Proof.Machine

/-- The window of FIND_SYNC (R191): words from the first data byte on, until one is 0x44, 0x89 or the window is used up. -/
def scanWords : Nat → State → State
  | 0, s => { s with ret := none }
  | n + 1, s => if syncNext s then { recv 2 s with ret := some true, found := true } else scanWords n (recv 2 s)

/-- The hunt is over: not found (R191). -/
def huntOver (s : State) : State := { s with ret := some false, found := false }

/-- FIND_SYNC inside its session (R191): the three stop conditions in order, then the window. The live track is
compared raw (D5). -/
def huntWindow (d : DriveIx) (s : State) : State :=
  if s.wrRequest = false then huntOver s
  else if s.lsTrack ≠ (s.drive d).track then huntOver s
  else if s.lsLen = 0 ∧ s.lsActive = false then huntOver s
  else scanWords s.lsLen.toNat s

/-- FIND_SYNC (R191): one session. -/
def findSyncPoll (d : DriveIx) (s : State) : State := linkDeselect (huntWindow d (openData s))

/-- HEADER_STAGE inside its session (R192). -/
def headerWindow (s : State) : State :=
  if s.wrRequest = false then { s with ret := some false }
  else if Config.hdrMinWords ≤ s.lsLen.toNat then decodeHeaderBody s
  else if s.lsActive = false then raiseErr Config.errHdrUnderrun s
  else { s with ret := none }

/-- HEADER_STAGE (R192): one session. -/
def headerPoll (s : State) : State := linkDeselect (headerWindow (openData s))

/-- The offset of the header's sector on the drive's track (R193). -/
def targetOffset (d : DriveIx) (s : State) : Nat := byteOffset (s.drive d).track.toNat s.hdrSector.toNat

/-- `off` computed and sought (R193). -/
def dataSought (d : DriveIx) (h : Handle) (s : State) : State :=
  storeSeek d h (targetOffset d s) { s with off := targetOffset d s }

/-- The seek succeeded and the tell after it answers the sought offset (R193). -/
def seekLanded (d : DriveIx) (h : Handle) (s : State) : Bool :=
  seekOk h (targetOffset d s) s && decide (tellPos h (dataSought d h s) = some (targetOffset d s))

/-- The first half of DATA_STAGE (R193): seek, tell, and the check that the seek landed. -/
def dataSeek (d : DriveIx) (h : Handle) (s : State) : State :=
  if seekLanded d h s then { storeTell d h (dataSought d h s) with seekDone := true }
  else raiseErr Config.errSeek (storeTell d h (dataSought d h s))

/-- DATA_STAGE inside its session (R193). -/
def dataWindow (s : State) : State :=
  if s.wrRequest = false then { s with ret := some false, seekDone := false }
  else if Config.dataMinWords ≤ s.lsLen.toNat then { decodeDataBody s with seekDone := false }
  else if s.lsActive = false then { raiseErr 28 s with seekDone := false }
  else { s with ret := none }

/-- The second half of DATA_STAGE (R193): one session. The seek is not repeated when it polls again (R197). -/
def dataPoll (s : State) : State := linkDeselect (dataWindow (openData s))

/-- DATA_STAGE (R193): the seek unless it is done, then, if it landed, one session. -/
def dataStagePoll (d : DriveIx) (h : Handle) (s : State) : State :=
  if s.seekDone then dataPoll s
  else if seekLanded d h s then dataPoll (dataSeek d h s)
  else dataSeek d h s

/-- COMMIT on a writable drive (R194). -/
def commitWrite (d : DriveIx) (h : Handle) (s : State) : State :=
  if accessOk h s then storeWrite d h s.buf s else raiseErr Config.errWrite (storeWrite d h s.buf s)

/-- COMMIT (R194) as the writer runs it: protection first, then the write. -/
def commitSector (d : DriveIx) (h : Handle) (s : State) : State :=
  if (s.drive d).writable then commitWrite d h s else raiseErr 30 s

/-- WR_ENTRY (R190): the position cache is invalidated. As in `readEntry`, `sel` is not written. DESIGN CHOICE, log 29. -/
def writeEntry (d : DriveIx) (s : State) : State :=
  setDrive d { s.drive d with trackPrev := none } { s with ctl := .seekSync }

/-- Where SEEK_SYNC goes (R197): a found sync clears `Error` and goes to HEADER. -/
def afterHunt (s : State) : State :=
  match s.ret with
  | none => { s with ctl := .seekSync }
  | some true => { s with error := 0, ctl := .header }
  | some false => { s with ctl := .wrExit }

/-- Where HEADER goes (R192, R197): a good header must name the drive's track, else error 27. -/
def afterHeader (d : DriveIx) (s : State) : State :=
  match s.ret with
  | none => { s with ctl := .header }
  | some false => { s with ctl := .wrReport }
  | some true =>
    if s.hdrTrack = (s.drive d).track then { s with ctl := .data, seekDone := false }
    else { raiseErr 27 s with ctl := .wrReport }

/-- Where DATA goes (R193, R197). -/
def afterData (s : State) : State :=
  match s.ret with
  | none => { s with ctl := .data }
  | some false => { s with ctl := .wrReport }
  | some true => { s with ctl := .commit }

/-- WRITE_TRACK (R190, R197): the transition of the phase `state` names; outside the writer's phases, its entry. -/
def execWriteTrack (d : DriveIx) (s : State) : Result :=
  if s.linkSelected then .refused .linkBusy
  else
    match s.image? d with
    | none => .refused .noImage
    | some h =>
      match s.ctl with
      | .seekSync => .next (afterHunt (findSyncPoll d s))
      | .header => .next (afterHeader d (headerPoll s))
      | .data => .next (afterData (dataStagePoll d h s))
      | .commit => .next { commitSector d h s with ctl := .wrReport }
      | .wrReport => .next (returnFromErr s)
      | .wrExit => .next { storeFlush d h s with ctl := .idle }
      | _ => .next (writeEntry d s)

/-- FIND_SYNC (R191). -/
def execFindSync (d : DriveIx) (s : State) : Result :=
  if s.linkSelected then .refused .linkBusy else .next (findSyncPoll d s)

/-- HEADER_STAGE (R192). -/
def execHeaderStage (s : State) : Result :=
  if s.linkSelected then .refused .linkBusy else .next (headerPoll s)

/-- DATA_STAGE (R193). -/
def execDataStage (d : DriveIx) (s : State) : Result :=
  if s.linkSelected then .refused .linkBusy
  else
    match (s.drive d).file with
    | none => .refused .noImage
    | some h => .next (dataStagePoll d h s)

/-- COMMIT (R194). A protected slot needs no handle: nothing is written. -/
def execCommit (d : DriveIx) (s : State) : Result :=
  if s.linkSelected then .refused .linkBusy
  else if (s.drive d).writable then
    match (s.drive d).file with
    | none => .refused .noImage
    | some h => .next (commitWrite d h s)
  else .next (raiseErr 30 s)

end Sys2Proof.Machine
end

