-- ==== Sys2Proof/Machine/Dispatcher.lean ====
section
/-! DEFINITION. The Drive Dispatcher: commands, status report, mount and unmount. R230 to R238. -/

namespace Sys2Proof.Machine

/-- SET_TRACK (R231): `df[sel].track <- min(t, df[sel].tracks - 1)`. -/
def setTrackOp (sel : DriveIx) (t : Byte) (s : State) : State :=
  setDrive sel { s.drive sel with track := clampTrack t (s.drive sel).tracks } s

/-- A track operation's opening (R230, R232, R233): `drives`, LED on, SET_TRACK, and the reader's or writer's entry. The
operation runs on in the following steps and its LED goes off when it is back in IDLE (logs 10, 26). -/
def openOperation (entry : Ctl) (sel : DriveIx) (count : BitVec 2) (t : Byte) (s : State) : State :=
  { setTrackOp sel t (ledOn { s with drives := count, sel := sel }) with ctl := entry }

/-- A track command presented to the engine: only in IDLE (R230), with the LINK free (R296), for a mounted slot (U1). -/
def startOperation (entry : Ctl) (sel : DriveIx) (count : BitVec 2) (t : Byte) (s : State) : Result :=
  if s.ctl ≠ .idle then .refused .busy
  else if s.linkSelected then .refused .linkBusy
  else if (s.drive sel).present then .next (openOperation entry sel count t s)
  else .refused .noImage

/-- The command with neither flag (R234): `drives` and nothing else. -/
def idleCommand (count : BitVec 2) (s : State) : Result :=
  if s.ctl ≠ .idle then .refused .busy else .next { s with drives := count }

/-- DRVSTAT (R235): a session of two sends; `state` is STAT inside it and IDLE after it. -/
def reportStatus (s : State) : State :=
  { linkDeselect (send [Config.opDrvstat, statusReport s.df] (linkSelect { s with ctl := .stat })) with ctl := .idle }

/-- A HOST event's precondition: IDLE (R291), the LINK free (R296). -/
def hostEvent (s : State) (next : State) : Result :=
  if s.ctl ≠ .idle then .refused .busy else if s.linkSelected then .refused .linkBusy else .next next

/-- The record MOUNT writes (R236). -/
def mountedDrive (f : Handle) (n : Byte) (w : Bool) : DriveState :=
  { track := 0, trackPrev := none, sectorOffset := 0, tracks := n, status := mountStatus w, file := some f }

/-- The record UNMOUNT leaves (R237): `track`, `sector_offset` and `tracks` are unspecified after it (R41): free values,
log 2. -/
def unmountedDrive (k : Nat) : DriveState :=
  { track := Config.freeTrack k
    trackPrev := none
    sectorOffset := Config.freeSectorOffset k
    tracks := Config.freeTracks k
    status := 0x00
    file := none }

/-- RDTRK (R232). -/
def execRdtrk (sel : DriveIx) (count : BitVec 2) (t : Byte) (s : State) : Result :=
  startOperation .rdEntry sel count t s

/-- WRTRK (R233). -/
def execWrtrk (sel : DriveIx) (count : BitVec 2) (t : Byte) (s : State) : Result :=
  startOperation .wrEntry sel count t s

/-- IDLE (R234). -/
def execIdle (count : BitVec 2) (s : State) : Result := idleCommand count s

/-- HANDLE_CMD (R230): read is tested first. -/
def execHandleCmd (c1 c2 : Byte) (s : State) : Result :=
  if cmdRd c1 then startOperation .rdEntry (cmdSel c1) (cmdCount c1) c2 s
  else if cmdWr c1 then startOperation .wrEntry (cmdSel c1) (cmdCount c1) c2 s
  else idleCommand (cmdCount c1) s

/-- SET_TRACK (R231). -/
def execSetTrack (sel : DriveIx) (t : Byte) (s : State) : Result := .next (setTrackOp sel t s)

/-- DRVSTAT (R235). -/
def execDrvstat (s : State) : Result :=
  if s.linkSelected then .refused .linkBusy else .next (reportStatus s)

/-- MOUNT (R236): the record, then DRVSTAT (log 22). -/
def execMount (d : DriveIx) (f : Handle) (n : Byte) (w : Bool) (s : State) : Result :=
  if n = 0 then .refused .badTrackCount else hostEvent s (reportStatus (setDrive d (mountedDrive f n w) s))

/-- UNMOUNT (R237): the record, then DRVSTAT (log 22). -/
def execUnmount (d : DriveIx) (s : State) : Result :=
  hostEvent s (reportStatus (setDrive d (unmountedDrive s.draws) { s with draws := s.draws + 1 }))

end Sys2Proof.Machine
end

