-- ==== Sys2Proof/Machine/Dispatch.lean ====
section
/-! DEFINITION. One arm per instruction, each one direct call of its meaning. -/
namespace Sys2Proof.Machine
open Host

def exec (i : Instr) (s : State) : Host.Outcome State Fault Refusal :=
  match i with
  | .rdtrk sel count t => Sys2Proof.Machine.execRdtrk sel count t s
  | .wrtrk sel count t => Sys2Proof.Machine.execWrtrk sel count t s
  | .idle count => Sys2Proof.Machine.execIdle count s
  | .drvstat => Sys2Proof.Machine.execDrvstat s
  | .mount d f n w => Sys2Proof.Machine.execMount d f n w s
  | .unmount d => Sys2Proof.Machine.execUnmount d s
  | .handleCmd c1 c2 => Sys2Proof.Machine.execHandleCmd c1 c2 s
  | .setTrack sel t => Sys2Proof.Machine.execSetTrack sel t s
  | .readTrack d => Sys2Proof.Machine.execReadTrack d s
  | .liveState => Sys2Proof.Machine.execLiveState s
  | .encodeSector sec t sync => Sys2Proof.Machine.execEncodeSector sec t sync s
  | .sendGap => Sys2Proof.Machine.execSendGap s
  | .writeTrack d => Sys2Proof.Machine.execWriteTrack d s
  | .findSync d => Sys2Proof.Machine.execFindSync d s
  | .headerStage => Sys2Proof.Machine.execHeaderStage s
  | .decodeHeader => Sys2Proof.Machine.execDecodeHeader s
  | .dataStage d => Sys2Proof.Machine.execDataStage d s
  | .decodeData => Sys2Proof.Machine.execDecodeData s
  | .commit d => Sys2Proof.Machine.execCommit d s

end Sys2Proof.Machine
end

