-- ==== Sys2Proof/Machine/Step.lean ====
section
/-! DEFINITION. One step: in IDLE the next CMD or HOST event, in a track operation its next transition (R33). -/

namespace Sys2Proof.Machine

/-- One step. In IDLE the head of `events` is taken and run; with none waiting the engine stays as it is (R274, log 12).
While an operation runs no event is taken (R290). -/
def step (s : State) : Host.Outcome State Fault Refusal :=
  match s.ctl with
  | .idle =>
    match s.events with
    | [] => .next s
    | e :: rest => exec (fetchEvent e) { s with events := rest }
  | .stat => exec .drvstat s
  | .rdEntry => closeBracket (exec (.readTrack s.sel) s)
  | .rdLoop => closeBracket (exec (.readTrack s.sel) s)
  | .rdNext => closeBracket (exec (.readTrack s.sel) s)
  | .wrEntry => closeBracket (exec (.writeTrack s.sel) s)
  | .seekSync => closeBracket (exec (.writeTrack s.sel) s)
  | .header => closeBracket (exec (.writeTrack s.sel) s)
  | .data => closeBracket (exec (.writeTrack s.sel) s)
  | .commit => closeBracket (exec (.writeTrack s.sel) s)
  | .wrReport => closeBracket (exec (.writeTrack s.sel) s)
  | .wrExit => closeBracket (exec (.writeTrack s.sel) s)

/-- The command word presented as the next CMD event, in IDLE, where events are taken (log 11). -/
def State.withFetchWord (s : State) (_nbits w : Nat) : State :=
  { s with ctl := .idle, events := commandEvent w :: s.events }

end Sys2Proof.Machine
end

