-- ==== Sys2Proof/Safety.lean ====
section
/-! DEFINITION. The terms claims are made in: what a session may touch, the bytes sent, and the invariant of the
engine. R21, R26, R28, R62, R238, R266. -/

namespace Sys2Proof.Machine

/-- The track operations' phases (R32). -/
def Ctl.reading : Ctl → Bool
  | .rdEntry => true
  | .rdLoop => true
  | .rdNext => true
  | .idle => false
  | .wrEntry => false
  | .seekSync => false
  | .header => false
  | .data => false
  | .commit => false
  | .wrReport => false
  | .wrExit => false
  | .stat => false

def Ctl.writing : Ctl → Bool
  | .wrEntry => true
  | .seekSync => true
  | .header => true
  | .data => true
  | .commit => true
  | .wrReport => true
  | .wrExit => true
  | .idle => false
  | .rdEntry => false
  | .rdLoop => false
  | .rdNext => false
  | .stat => false

/-- A track operation is running. -/
def Ctl.running (c : Ctl) : Bool := c.reading || c.writing

/-- The bytes the engine sent in exchanges whose answer it discards: what `Send` put on the LINK, in order. -/
def sentBytes : List PortEvent → List Byte
  | [] => []
  | .xfer tx none :: rest => tx :: sentBytes rest
  | _ :: rest => sentBytes rest

/-- The exchanges of `Send` for each byte in turn (R13). -/
def sendEvents (bs : List Byte) : List PortEvent := bs.map fun b => .xfer b none

/-- The exchanges of `Recv` that gave these bytes: 0x00 is sent each time (R13, R63). -/
def recvEvents (bs : List Byte) : List PortEvent := bs.map fun b => .xfer 0x00 (some b)

/-- The drive-status session for a drive table: 0x10, then the four statuses shifted by drive index (R97, R235). -/
def statusSession (df : Quad DriveState) : List PortEvent :=
  [.linkSelect, .xfer 0x10 none,
    .xfer ((df.q0.status ||| (df.q1.status <<< 1) ||| (df.q2.status <<< 2) ||| (df.q3.status <<< 3)) &&& 0xFF) none,
    .linkDeselect]

/-- These bytes may be what the controller answers next: they agree with its supply as far as that goes (R14). -/
def State.MayReceive (s : State) (bs : List Byte) : Prop :=
  ∀ i, i < bs.length → i < s.linkIn.length → bs[i]? = s.linkIn[i]?

/-- The exclusive or of the bytes of a list whose index is k modulo 4 (R132). -/
def laneOf (bs : List Byte) (k : Nat) : Byte :=
  ((List.range bs.length).filter fun i => i % 4 = k).foldl (fun acc i => acc ^^^ bs.getD i 0) 0

/-- The four lanes of a list of bytes. -/
def lanesOf (bs : List Byte) : Quad Byte := ⟨laneOf bs 0, laneOf bs 1, laneOf bs 2, laneOf bs 3⟩

/-- The image byte reads as before in every file. -/
def SameImages (s t : State) : Prop := ∀ (k : Handle) (a : Nat), imageByte t k a = imageByte s k a

/-- The store is as before but for the cursor of one file: the other files are untouched, and this one keeps its bytes, its
length and its unflushed writes. What a seek, a read or a tell may change (R64, R67). -/
def CursorOnly (h : Handle) (s t : State) : Prop :=
  (∀ k, k ≠ h → fileAt t.store k = fileAt s.store k) ∧
    fileAt t.store h = { fileAt s.store h with cursor := (fileAt t.store h).cursor }

/-- A state with everything blanked that the receiving stages of a data session may write: the live-state registers,
the codec's registers and buffer, `found`, `Error`, the stage's own marks, and what an exchange changes. Two states equal
here agree on everything else: the drive table, `state`, the operation's registers, the store, the inputs. -/
def State.outsideSession (s : State) : State :=
  { s with
    buf := Block.zero, error := 0
    lsStatus := 0, lsTrack := 0, lsSync := 0, lsLen := 0, lsActive := false, found := false
    hdrTrack := 0, hdrSector := 0, b := Quad.fill 0, lane := Quad.fill 0, cks := Quad.fill 0
    o := Quad.fill 0, e := Quad.fill 0, wo := Quad.fill 0, we := Quad.fill 0
    linkSelected := false, linkIn := [], draws := 0, trace := [], ret := none, seekDone := false }

/-- A drive record as the operations leave it: reserved status bits 0, writable only if present (R26), and while
present a track count, a track below it (R28), a handle, and a cached sector 0..10 (R24). -/
structure DriveState.Legal (r : DriveState) : Prop where
  reserved : r.status &&& 0xEE = 0
  writable_present : r.writable = true → r.present = true
  tracks_pos : r.present = true → r.tracks ≠ 0
  track_lt : r.present = true → r.track < r.tracks
  has_file : r.present = true → r.file ≠ none
  cached_sector : r.present = true → r.sectorOffset ≤ 10

/-- The file of the selected drive. -/
def State.selFile (s : State) : StoreFile := fileAt s.store ((s.drive s.sel).file.getD 0)

/-- What holds between any two steps. -/
structure State.Inv (s : State) : Prop where
  /-- The LINK is released (R62). -/
  link_free : s.linkSelected = false
  /-- The store is in canonical form. The form is the model's own (log 7). -/
  store_wf : Store.wf s.store
  /-- The four records are legal (R26, R28). -/
  drives_legal : ∀ d, (s.drive d).Legal
  /-- The LED is on exactly while a track operation runs (R238). -/
  led_running : s.led = s.ctl.running
  /-- A running operation's drive is mounted (R170, R190). -/
  sel_present : s.ctl.running = true → (s.drive s.sel).present = true
  /-- `Error` is nonzero in WR_REPORT only (R266). -/
  error_zero : s.ctl ≠ .wrReport → s.error = 0
  /-- In the reader's loop the sector is 0..10 and is the cached one, and the cache is valid (R170, R175). -/
  reader_sector : s.ctl = .rdLoop ∨ s.ctl = .rdNext →
    s.sector ≤ 10 ∧ s.sector = (s.drive s.sel).sectorOffset ∧ (s.drive s.sel).cacheValid = true
  /-- The writer has invalidated the cache (R190). -/
  writer_cache : s.ctl.writing = true → s.ctl ≠ .wrEntry → (s.drive s.sel).trackPrev = none
  /-- DATA and COMMIT work on a header that passed its checks and names the drive's track (R192). -/
  writer_header : s.ctl = .data ∨ s.ctl = .commit → s.hdrTrack = (s.drive s.sel).track ∧ s.hdrSector ≤ 10
  /-- Once DATA has sought, and in COMMIT, the cursor stands at the header's sector (R193, R194). That `seekDone` says that
  DATA has sought is the model's choice (log 18), and that a sought offset lies inside the file is its choice of what a seek
  past the end does (log 8, unsafe). -/
  writer_cursor : (s.ctl = .data ∧ s.seekDone = true) ∨ s.ctl = .commit →
    s.off = targetOffset s.sel s ∧ s.selFile.cursor = s.off ∧ s.off ≤ s.selFile.size
  /-- The seek mark belongs to DATA. The mark is the model's own (log 18). -/
  seek_mark : s.seekDone = true → s.ctl = .data

/-- The head of the event queue, if there is one, is within the spec's preconditions: a command names a mounted drive
(U1), a mount has a track count (U10). -/
def State.EventOk (s : State) : Prop :=
  match s.events with
  | [] => True
  | .command c1 _ :: _ => cmdRd c1 = true ∨ cmdWr c1 = true → (s.drive (cmdSel c1)).present = true
  | .mount _ _ n _ :: _ => n ≠ 0
  | .unmount _ :: _ => True

end Sys2Proof.Machine
end

