-- ==== Sys2Proof/Certificates/Slice0/Obligations.lean ====
section
/-! DEFINITION. The statements for the provers. Each docstring names the rules it formalises. -/

open Sys2Proof Sys2Proof.Machine

/-! ## Encoding -/

/-- R93, R94 (a) to (c): which command two bytes are, and its fields (R92). -/
def Obligations.CommandBytesDecode : Prop :=
  ∀ c1 c2 : Byte,
    (c1.getLsbD 0 = true →
      decode [c1, c2] = .ok (.rdtrk (c1.extractLsb' 6 2) (c1.extractLsb' 4 2) c2)) ∧
    (c1.getLsbD 0 = false → c1.getLsbD 1 = true →
      decode [c1, c2] = .ok (.wrtrk (c1.extractLsb' 6 2) (c1.extractLsb' 4 2) c2)) ∧
    (c1.getLsbD 0 = false → c1.getLsbD 1 = false → decode [c1, c2] = .ok (.idle (c1.extractLsb' 4 2)))

/-- Words written out from R91 and R109 decode to what they stand for (the table V41). -/
def Obligations.CommandWordExamples : Prop :=
  decodeTableWord 16 0x4105 = some (.rdtrk 1 0 5) ∧ decodeTableWord 16 0x9105 = some (.rdtrk 2 1 5) ∧
    decodeTableWord 16 0xF29F = some (.wrtrk 3 3 159) ∧ decodeTableWord 16 0x0300 = some (.rdtrk 0 0 0) ∧
    decodeTableWord 16 0x0D07 = some (.rdtrk 0 0 7) ∧ decodeTableWord 16 0x3007 = some (.idle 3)

/-- R109: decoding the bytes of an encoded instruction gives it back, for every operand. -/
def Obligations.DecodeEncodeAgree : Prop :=
  ∀ (i : Instr) (bs : List Byte), encode i = some bs → decode bs = .ok i

/-- R94 (a) to (c): encoding what a word decodes to gives that word with the ignored bits cleared. -/
def Obligations.EncodeDecodeClearsIgnoredBits : Prop :=
  ∀ (c1 c2 : Byte) (i : Instr), decode [c1, c2] = .ok i →
    encode i = some
      (if c1.getLsbD 0 then [c1 &&& 0xF1, c2] else if c1.getLsbD 1 then [c1 &&& 0xF2, c2] else [c1 &&& 0x30, 0])

/-! ## The step -/

/-- A step in IDLE runs the instruction that the bytes of the waiting command decode to (R230); the queue of waiting events
is the model's, log 11. -/
def Obligations.StepRunsDecodedCommand : Prop :=
  ∀ (s : State) (c1 c2 : Byte) (rest : List InEvent) (i : Instr),
    s.ctl = .idle → s.events = .command c1 c2 :: rest → decode [c1, c2] = .ok i → i.wf = true →
      step s = exec i { s with events := rest }

/-- A step in IDLE runs a waiting HOST event (R236, R237); the queue of waiting events, from whose head it is taken, is the
model's, log 11. -/
def Obligations.StepRunsHostEvent : Prop :=
  ∀ (s : State) (rest : List InEvent), s.ctl = .idle →
    (∀ d f n w, s.events = .mount d f n w :: rest → step s = exec (.mount d f n w) { s with events := rest }) ∧
    (∀ d, s.events = .unmount d :: rest → step s = exec (.unmount d) { s with events := rest })

/-- A step inside an operation is one transition of it, and the LED goes off when it is back in IDLE (R33, R238). With
no event waiting, IDLE waits (R274). The model's choices: one transition per step (log 10), LedOff in the step that comes
back to IDLE (log 28), STAT as a phase that a step can start in (logs 22, 25), the stutter in IDLE (log 12). -/
def Obligations.StepInsideOperation : Prop :=
  ∀ s t : State,
    (s.ctl.reading = true → exec (.readTrack s.sel) s = .next t →
      step s = .next (if t.ctl = .idle then { t with led := false, trace := t.trace ++ [.ledOff] } else t)) ∧
    (s.ctl.writing = true → exec (.writeTrack s.sel) s = .next t →
      step s = .next (if t.ctl = .idle then { t with led := false, trace := t.trace ++ [.ledOff] } else t)) ∧
    (s.ctl = .stat → step s = exec .drvstat s) ∧
    (s.ctl = .idle → s.events = [] → step s = .next s)

/-- R290: while `state` is not IDLE no CMD and no HOST event is accepted: a step leaves them waiting, and such an
event has no step of its own. The queue the events wait in (log 11) and the name `busy` (log 21) are the model's. A MOUNT
with a track count of 0 is in RefusalsByName. -/
def Obligations.NoEventOutsideIdle : Prop :=
  ∀ s : State, s.ctl ≠ .idle →
    (∀ t, step s = .next t → t.events = s.events) ∧
    (∀ sel count tr, exec (.rdtrk sel count tr) s = .refused .busy) ∧
    (∀ sel count tr, exec (.wrtrk sel count tr) s = .refused .busy) ∧
    (∀ count, exec (.idle count) s = .refused .busy) ∧
    (∀ c1 c2, exec (.handleCmd c1 c2) s = .refused .busy) ∧
    (∀ d f n w, n ≠ 0 → exec (.mount d f n w) s = .refused .busy) ∧
    (∀ d, exec (.unmount d) s = .refused .busy)

/-! ## The Dispatcher -/

/-- R230, R231, R232: RDTRK stores the count, turns the LED on, sets the clamped track, and enters READ_TRACK; nothing
else changes. The rest of READ_TRACK and the LED's end are the following steps, and `sel` is written here: the model's
choices, logs 10 and 26. -/
def Obligations.RdtrkOpensRead : Prop :=
  ∀ (sel : DriveIx) (count : BitVec 2) (t : Byte) (s : State),
    s.ctl = .idle → s.linkSelected = false → (s.drive sel).status.getLsbD 0 = true → (s.drive sel).tracks ≠ 0 →
      exec (.rdtrk sel count t) s = .next { s with
        drives := count, sel := sel, led := true, ctl := .rdEntry, trace := s.trace ++ [.ledOn]
        df := s.df.set sel { s.drive sel with
          track := BitVec.ofNat 8 (min t.toNat ((s.drive sel).tracks.toNat - 1)) } }

/-- R230, R231, R233: the same for WRTRK, which enters WRITE_TRACK; the model's choices as before, logs 10 and 26. -/
def Obligations.WrtrkOpensWrite : Prop :=
  ∀ (sel : DriveIx) (count : BitVec 2) (t : Byte) (s : State),
    s.ctl = .idle → s.linkSelected = false → (s.drive sel).status.getLsbD 0 = true → (s.drive sel).tracks ≠ 0 →
      exec (.wrtrk sel count t) s = .next { s with
        drives := count, sel := sel, led := true, ctl := .wrEntry, trace := s.trace ++ [.ledOn]
        df := s.df.set sel { s.drive sel with
          track := BitVec.ofNat 8 (min t.toNat ((s.drive sel).tracks.toNat - 1)) } }

/-- R234: a command with neither flag writes `drives` and nothing else, whatever SEL and TRACK hold. That it leaves `sel`
alone is the model's choice, log 26 (unsafe), and the queue the command waits in is its form of the CMD port, log 11. -/
def Obligations.IdleCommandWritesDrivesOnly : Prop :=
  (∀ (count : BitVec 2) (s : State), s.ctl = .idle → exec (.idle count) s = .next { s with drives := count }) ∧
  (∀ (c1 c2 : Byte) (s : State), s.ctl = .idle → c1.getLsbD 0 = false → c1.getLsbD 1 = false →
    step { s with events := .command c1 c2 :: s.events } = .next { s with drives := c1.extractLsb' 4 2 })

/-- R230: HANDLE_CMD dispatches on the flags, read first: it is the decoded command, and it completes where that does. That
it answers in the operation's entry phase, the rest being the following steps, is the model's choice, log 10; that `sel` is
written with a flag and left without one, log 26. -/
def Obligations.HandleCmdDispatches : Prop :=
  ∀ (c1 c2 : Byte) (s : State), s.ctl = .idle →
    (∀ i, decode [c1, c2] = .ok i → exec (.handleCmd c1 c2) s = exec i s) ∧
    (s.linkSelected = false → (s.drive (c1.extractLsb' 6 2)).status.getLsbD 0 = true →
      c1.getLsbD 0 = true ∨ c1.getLsbD 1 = true →
      ∃ t, exec (.handleCmd c1 c2) s = .next t ∧ t.drives = c1.extractLsb' 4 2 ∧ t.sel = c1.extractLsb' 6 2 ∧
        t.led = true ∧ t.ctl = (if c1.getLsbD 0 then .rdEntry else .wrEntry) ∧ t.trace = s.trace ++ [.ledOn] ∧
        t.store = s.store ∧ t.error = s.error ∧ t.buf = s.buf ∧
        ∀ d, d ≠ c1.extractLsb' 6 2 → t.drive d = s.drive d) ∧
    (c1.getLsbD 0 = false → c1.getLsbD 1 = false →
      exec (.handleCmd c1 c2) s = .next { s with drives := c1.extractLsb' 4 2 })

/-- R231: SET_TRACK stores `min(t, tracks - 1)` and changes nothing else; no error, no event. -/
def Obligations.SetTrackClamps : Prop :=
  ∀ (sel : DriveIx) (t : Byte) (s : State), (s.drive sel).tracks ≠ 0 →
    exec (.setTrack sel t) s = .next { s with
      df := s.df.set sel { s.drive sel with
        track := BitVec.ofNat 8 (min t.toNat ((s.drive sel).tracks.toNat - 1)) } }

/-- The model's choice, log 17: with a track count of 0, which no mounted slot has, the track is some free value and
SET_TRACK still completes. -/
def Obligations.SetTrackWithoutTracks : Prop :=
  ∀ (sel : DriveIx) (t : Byte) (s : State), (s.drive sel).tracks = 0 →
    ∃ v : Byte, exec (.setTrack sel t) s = .next { s with df := s.df.set sel { s.drive sel with track := v } }

/-- R235: DRVSTAT is a session of the two bytes 0x10 and S, and leaves everything but `state` as it was. -/
def Obligations.DrvstatSendsStatus : Prop :=
  ∀ s : State, s.linkSelected = false →
    exec .drvstat s = .next { s with ctl := .idle, trace := s.trace ++ statusSession s.df }

/-- R97: bit i of the status byte is drive i's present flag, bit 4 + i its writable flag. -/
def Obligations.StatusByteBits : Prop :=
  ∀ df : Quad DriveState, (∀ d, (df.get d).status &&& 0xEE = 0) → ∀ d : DriveIx,
    (statusReport df).getLsbD d.toNat = (df.get d).status.getLsbD 0 ∧
    (statusReport df).getLsbD (4 + d.toNat) = (df.get d).status.getLsbD 4

/-- R236: MOUNT resets one slot, then reports the four statuses; nothing else changes. That both are one step is the
model's choice, log 22. -/
def Obligations.MountResetsSlot : Prop :=
  ∀ (d : DriveIx) (f : Handle) (n : Byte) (w : Bool) (s : State),
    n ≠ 0 → s.ctl = .idle → s.linkSelected = false →
      exec (.mount d f n w) s = .next { s with
        df := s.df.set d { track := 0, trackPrev := none, sectorOffset := 0, tracks := n
                           status := 0x01 ||| (if w then 0x10 else 0x00), file := some f }
        trace := s.trace ++ statusSession (s.df.set d { track := 0, trackPrev := none, sectorOffset := 0, tracks := n
                                                        status := 0x01 ||| (if w then 0x10 else 0x00), file := some f }) }

/-- R237: UNMOUNT clears one slot, then reports; `track`, `sector_offset` and `tracks` of the slot hold some value, and a
draw of the model's counter is used up (the model's choices, logs 2 and 22). -/
def Obligations.UnmountClearsSlot : Prop :=
  ∀ (d : DriveIx) (s : State), s.ctl = .idle → s.linkSelected = false →
    ∃ (tr n : Byte) (o : BitVec 4),
      exec (.unmount d) s = .next { s with
        draws := s.draws + 1
        df := s.df.set d { track := tr, trackPrev := none, sectorOffset := o, tracks := n, status := 0, file := none }
        trace := s.trace ++ statusSession
          (s.df.set d { track := tr, trackPrev := none, sectorOffset := o, tracks := n, status := 0, file := none }) }

/-- U1, U10, U11, R61, R62: where the model refuses, and under which name (the names are the model's choice, log 21). The
refusals as `busy` are in NoEventOutsideIdle. -/
def Obligations.RefusalsByName : Prop :=
  (∀ sel count tr (s : State), s.ctl = .idle → s.linkSelected = false → (s.drive sel).status.getLsbD 0 = false →
    exec (.rdtrk sel count tr) s = .refused .noImage ∧ exec (.wrtrk sel count tr) s = .refused .noImage) ∧
  (∀ c1 c2 (s : State), s.ctl = .idle → s.linkSelected = false →
    (s.drive (c1.extractLsb' 6 2)).status.getLsbD 0 = false → c1.getLsbD 0 = true ∨ c1.getLsbD 1 = true →
      exec (.handleCmd c1 c2) s = .refused .noImage) ∧
  (∀ (d : DriveIx) (s : State), s.linkSelected = false →
    ((s.drive d).status.getLsbD 0 = false ∨ (s.drive d).file = none →
      exec (.readTrack d) s = .refused .noImage ∧ exec (.writeTrack d) s = .refused .noImage) ∧
    ((s.drive d).file = none → exec (.dataStage d) s = .refused .noImage) ∧
    ((s.drive d).file = none → (s.drive d).status.getLsbD 4 = true → exec (.commit d) s = .refused .noImage)) ∧
  (∀ d f w (s : State), exec (.mount d f 0 w) s = .refused .badTrackCount) ∧
  (∀ sec t sync (s : State), 10#4 < sec → exec (.encodeSector sec t sync) s = .refused .sectorOutOfRange) ∧
  (∀ (d : DriveIx) (h : Handle) (b0 b1 b2 b3 b4 b5 : Byte) (rest : List Byte) (s : State),
    s.linkSelected = false → (s.drive d).status.getLsbD 0 = true → (s.drive d).file = some h →
    (s.drive d).tracks ≠ 0 → s.ctl = .rdLoop → 10#4 < s.sector → s.linkIn = b0 :: b1 :: b2 :: b3 :: b4 :: b5 :: rest →
    b0.getLsbD 0 = true → BitVec.ofNat 8 (min b1.toNat ((s.drive d).tracks.toNat - 1)) = (s.drive d).track →
      exec (.readTrack d) s = .refused .sectorOutOfRange) ∧
  (∀ s : State, s.linkSelected = false →
    exec .liveState s = .refused .linkNotSelected ∧ exec .sendGap s = .refused .linkNotSelected ∧
    exec .decodeHeader s = .refused .linkNotSelected ∧ exec .decodeData s = .refused .linkNotSelected ∧
    ∀ sec t sync, sec ≤ 10#4 → exec (.encodeSector sec t sync) s = .refused .linkNotSelected) ∧
  (∀ s : State, s.ctl = .idle → s.linkSelected = true →
    (∀ sel count tr, exec (.rdtrk sel count tr) s = .refused .linkBusy ∧
      exec (.wrtrk sel count tr) s = .refused .linkBusy) ∧
    (∀ c1 c2, c1.getLsbD 0 = true ∨ c1.getLsbD 1 = true → exec (.handleCmd c1 c2) s = .refused .linkBusy) ∧
    (∀ d f n w, n ≠ 0 → exec (.mount d f n w) s = .refused .linkBusy) ∧
    (∀ d, exec (.unmount d) s = .refused .linkBusy)) ∧
  (∀ (d : DriveIx) (s : State), s.linkSelected = true →
    exec .drvstat s = .refused .linkBusy ∧ exec (.readTrack d) s = .refused .linkBusy ∧
    exec (.writeTrack d) s = .refused .linkBusy ∧ exec (.findSync d) s = .refused .linkBusy ∧
    exec .headerStage s = .refused .linkBusy ∧ exec (.dataStage d) s = .refused .linkBusy ∧
    exec (.commit d) s = .refused .linkBusy)

/-! ## The LINK and the codec -/

/-- R14: what n receiving exchanges give are n bytes, the controller's supply as far as it goes (the supply is the model's
form of the controller, log 3). -/
def Obligations.ReceivedIsControllersAnswer : Prop :=
  ∀ (n : Nat) (s : State), (received n s).length = n ∧ s.MayReceive (received n s)

/-- R171, R95, R96: LIVE_STATE is six exchanges and fills the six registers; nothing else changes. -/
def Obligations.LiveStateFillsRegisters : Prop :=
  ∀ s : State, s.linkSelected = true →
    ∃ b0 b1 b2 b3 b4 b5 : Byte, s.MayReceive [b0, b1, b2, b3, b4, b5] ∧
      exec .liveState s = .next { s with
        lsStatus := b0, lsTrack := b1, lsSync := b2 ++ b3, lsLen := b4.extractLsb' 0 6 ++ b5, lsActive := b4.getLsbD 7
        linkIn := s.linkIn.drop 6, draws := s.draws + 6
        trace := s.trace ++ recvEvents [b0, b1, b2, b3, b4, b5] }

/-- R131: the three bit functions and their laws. -/
def Obligations.BitFunctionLaws : Prop :=
  (∀ v : Byte, odd v = (v >>> 1) &&& 0x55 ∧ even v = v &&& 0x55) ∧
  (∀ wo we : Byte, merge wo we = ((wo &&& 0x55) <<< 1) ||| (we &&& 0x55)) ∧
  (∀ v c d : Byte, c &&& 0x55 = 0 → d &&& 0x55 = 0 → merge (odd v ||| c) (even v ||| d) = v) ∧
  (∀ v : Byte, odd v ^^^ even v = (v ^^^ (v >>> 1)) &&& 0x55) ∧
  odd 0xFF = 0x55 ∧ even 0xFF = 0x55 ∧ odd 0 = 0 ∧ even 0 = 0

/-- R132: a lane is the exclusive or of the bytes whose index is the lane's modulo 4, with no masking on the way; and the
four lanes of a list of longwords are the four bytes of the longwords' exclusive or. -/
def Obligations.LanesAreColumns : Prop :=
  (∀ bs : List Byte, foldLanes (Quad.fill 0) 0 bs = lanesOf bs) ∧
  ∀ ws : List (BitVec 32),
    let bytes := fun w : BitVec 32 => [w.extractLsb' 24 8, w.extractLsb' 16 8, w.extractLsb' 8 8, w.extractLsb' 0 8]
    (foldLanes (Quad.fill 0) 0 (ws.flatMap bytes)).toList = bytes (ws.foldl (· ^^^ ·) 0)

/-- R100, R134, R135: the 1088 bytes of a sector, field by field. -/
def Obligations.SectorLayout : Prop :=
  ∀ (buf : Block) (s : BitVec 4) (t : Byte) (sync : Word16), s ≤ 10 →
    (sectorBytes buf s t sync).length = 1088 ∧
    sectorBytes buf s t sync =
      List.replicate 4 (0xAA : Byte) ++
      [sync.extractLsb' 8 8, sync.extractLsb' 0 8, sync.extractLsb' 8 8, sync.extractLsb' 0 8] ++
      [(0x55 : Byte), (t >>> 1) &&& 0x55, (BitVec.ofNat 8 s.toNat >>> 1) &&& 0x55,
        (BitVec.ofNat 8 (11 - s.toNat) >>> 1) &&& 0x55] ++
      [(0x55 : Byte), t &&& 0x55, BitVec.ofNat 8 s.toNat &&& 0x55, BitVec.ofNat 8 (11 - s.toNat) &&& 0x55] ++
      List.replicate 32 (0xAA : Byte) ++
      List.replicate 4 (0xAA : Byte) ++
      ([(0xFF : Byte), t, BitVec.ofNat 8 s.toNat, BitVec.ofNat 8 (11 - s.toNat)].map fun v : Byte =>
        (((v >>> 1) &&& 0x55) ^^^ (v &&& 0x55)) ||| 0xAA) ++
      List.replicate 4 (0xAA : Byte) ++
      ([0, 1, 2, 3].map fun k => laneOf (buf.bytes.map fun x : Byte => x ^^^ (x >>> 1)) k ||| 0xAA) ++
      (buf.bytes.map fun x : Byte => (x >>> 1) ||| 0xAA) ++
      (buf.bytes.map fun x : Byte => x ||| 0xAA)

/-- R133: ENCODE_SECTOR sends the sector's bytes and writes no engine state. -/
def Obligations.EncodeSectorSends : Prop :=
  ∀ (sec : BitVec 4) (t : Byte) (sync : Word16) (s : State), sec ≤ 10 → s.linkSelected = true →
    exec (.encodeSector sec t sync) s = .next { s with trace := s.trace ++ sendEvents (sectorBytes s.buf sec t sync) }

/-- R136: SEND_GAP sends 700 bytes 0xAA and writes no engine state; and READ_TRACK sends the gap right after sector 10, in
the same session, wherever it started. -/
def Obligations.SendGapSends : Prop :=
  (∀ s : State, s.linkSelected = true →
    exec .sendGap s = .next { s with trace := s.trace ++ sendEvents (List.replicate 700 0xAA) }) ∧
  ∀ (d : DriveIx) (h : Handle) (b0 b1 b2 b3 b4 b5 : Byte) (rest : List Byte) (s : State),
    s.linkSelected = false → (s.drive d).status.getLsbD 0 = true → (s.drive d).file = some h →
    (s.drive d).tracks ≠ 0 → s.ctl = .rdLoop → s.sector = 10 → s.linkIn = b0 :: b1 :: b2 :: b3 :: b4 :: b5 :: rest →
    b0.getLsbD 0 = true → BitVec.ofNat 8 (min b1.toNat ((s.drive d).tracks.toNat - 1)) = (s.drive d).track →
      ∃ t ok, exec (.readTrack d) s = .next t ∧
        t.trace = s.trace ++ [.storeRead d (fileAt s.store h).cursor ok, .linkSelect] ++
          recvEvents [b0, b1, b2, b3, b4, b5] ++ sendEvents (sectorBytes t.buf 10 (s.drive d).track t.sync) ++
          sendEvents (List.replicate 700 0xAA) ++ [.linkDeselect]

/-- R137 to R139: what DECODE_HEADER makes of the bytes it receives. The first check that fails decides the code and
how many bytes are taken; on 21 to 25 `hdr_track` and `hdr_sector` stay (that 26 writes them is the spec's D29, log 24).
Besides the codec's registers, `Error` and the supply nothing changes. -/
def Obligations.DecodeHeaderVerdict : Prop :=
  ∀ s : State, s.linkSelected = true →
    ∃ t, exec .decodeHeader s = .next t ∧
      t = { s with
        hdrTrack := t.hdrTrack, hdrSector := t.hdrSector, b := t.b, lane := t.lane, cks := t.cks, o := t.o, e := t.e
        wo := t.wo, we := t.we, error := t.error, ret := t.ret, linkIn := t.linkIn, draws := t.draws, trace := t.trace } ∧
      (let bs := received 50 s
       let b := fun k => merge (bs.getD (2 + k) 0) (bs.getD (6 + k) 0)
       let failed := fun (code : Byte) (n : Nat) =>
         t.error = code ∧ t.ret = some false ∧ t.linkIn = s.linkIn.drop n ∧
           t.trace = s.trace ++ recvEvents (bs.take n)
       let keeps := t.hdrTrack = s.hdrTrack ∧ t.hdrSector = s.hdrSector
       if ¬(bs.getD 0 0 = 0x44 ∧ bs.getD 1 0 = 0x89) then failed 21 2 ∧ keeps
       else if b 0 ≠ 0xFF then failed 22 10 ∧ keeps
       else if 159 < (b 1).toNat then failed 23 10 ∧ keeps
       else if 10 < (b 2).toNat then failed 24 10 ∧ keeps
       else if b 3 = 0 ∨ 11 < (b 3).toNat then failed 25 10 ∧ keeps
       else t.hdrTrack = b 1 ∧ t.hdrSector = b 2 ∧
         if ∀ k : Nat, k < 4 → merge (bs.getD (42 + k) 0) (bs.getD (46 + k) 0) = laneOf ((bs.drop 2).take 40) k &&& 0x55 then
           t.error = s.error ∧ t.ret = some true ∧ t.linkIn = s.linkIn.drop 50 ∧
             t.trace = s.trace ++ recvEvents bs
         else failed 26 50)

/-- R140: what DECODE_DATA makes of the 1032 bytes it receives: the Sector Buffer, and error 29 on a mismatch. Besides
those, the codec's registers and the supply nothing changes. -/
def Obligations.DecodeDataVerdict : Prop :=
  ∀ s : State, s.linkSelected = true →
    ∃ t, exec .decodeData s = .next t ∧
      t = { s with
        buf := t.buf, lane := t.lane, cks := t.cks, wo := t.wo, we := t.we, error := t.error, ret := t.ret
        linkIn := t.linkIn, draws := t.draws, trace := t.trace } ∧
      (let bs := received 1032 s
       t.linkIn = s.linkIn.drop 1032 ∧ t.trace = s.trace ++ recvEvents bs ∧
       (∀ i < 512, t.buf.bytes.getD i 0 = ((bs.getD (8 + i) 0 &&& 0x55) <<< 1) ||| (bs.getD (520 + i) 0 &&& 0x55)) ∧
       if ∀ k : Nat, k < 4 → merge (bs.getD k 0) (bs.getD (4 + k) 0) = laneOf (bs.drop 8) k &&& 0x55 then
         t.error = s.error ∧ t.ret = some true
       else t.error = 29 ∧ t.ret = some false)

/-- R141: DECODE_DATA of what ENCODE_SECTOR sends from offset 56 on gives the buffer back. -/
def Obligations.DataRoundTrip : Prop :=
  ∀ (buf : Block) (sec : BitVec 4) (tr : Byte) (sync : Word16) (s : State) (rest : List Byte),
    sec ≤ 10 → s.linkSelected = true → s.linkIn = (sectorBytes buf sec tr sync).drop 56 ++ rest →
      ∃ t, exec .decodeData s = .next t ∧ t.ret = some true ∧ t.buf = buf ∧ t.error = s.error ∧ t.linkIn = rest

/-- R141: DECODE_HEADER of bytes 6 to 55 gives track and sector back. -/
def Obligations.HeaderRoundTrip : Prop :=
  ∀ (buf : Block) (sec : BitVec 4) (tr : Byte) (s : State) (rest : List Byte),
    sec ≤ 10 → tr.toNat < 160 → s.linkSelected = true →
    s.linkIn = ((sectorBytes buf sec tr 0x4489).drop 6).take 50 ++ rest →
      ∃ t, exec .decodeHeader s = .next t ∧ t.ret = some true ∧ t.hdrTrack = tr ∧ t.hdrSector.toNat = sec.toNat ∧
        t.error = s.error ∧ t.linkIn = rest

/-- R140, R142: a flipped bit in a received data block is error 29 in a data position, and nothing in a clock position. -/
def Obligations.DataBitFlips : Prop :=
  ∀ (buf : Block) (sec : BitVec 4) (tr : Byte) (sync : Word16) (s : State) (rest : List Byte) (i j : Nat),
    sec ≤ 10 → s.linkSelected = true → i < 1032 → j < 8 →
    s.linkIn = (let bs := (sectorBytes buf sec tr sync).drop 56
                bs.set i (bs.getD i 0 ^^^ (1#8 <<< j))) ++ rest →
      ∃ t, exec .decodeData s = .next t ∧
        (j % 2 = 0 → t.error = 29 ∧ t.ret = some false) ∧
        (j % 2 = 1 → t.error = s.error ∧ t.ret = some true ∧ t.buf = buf)

/-- R142: what stands in the clock positions of received bytes, the two sync bytes apart, changes neither verdict, nor
header, nor buffer. -/
def Obligations.ClockBitsIgnored : Prop :=
  ∀ (s : State) (l m : List Byte), s.linkSelected = true → l.length = m.length →
    (50 ≤ l.length → (∀ i < 2, l.getD i 0 = m.getD i 0) → (∀ i < 50, l.getD i 0 &&& 0x55 = m.getD i 0 &&& 0x55) →
      ∃ t u, exec .decodeHeader { s with linkIn := l } = .next t ∧ exec .decodeHeader { s with linkIn := m } = .next u ∧
        t.ret = u.ret ∧ t.error = u.error ∧ t.hdrTrack = u.hdrTrack ∧ t.hdrSector = u.hdrSector) ∧
    (1032 ≤ l.length → (∀ i < 1032, l.getD i 0 &&& 0x55 = m.getD i 0 &&& 0x55) →
      ∃ t u, exec .decodeData { s with linkIn := l } = .next t ∧ exec .decodeData { s with linkIn := m } = .next u ∧
        t.ret = u.ret ∧ t.error = u.error ∧ t.buf = u.buf)

/-! ## The Track Reader -/

/-- R170: the entry of READ_TRACK. On a track change the cache is set and sector 0 sought, otherwise the cached sector.
Of the store only this file's cursor changes. When the seek succeeds follows the model's Block Store, logs 5 and 8. -/
def Obligations.ReadEntrySeeks : Prop :=
  ∀ (d : DriveIx) (h : Handle) (s : State),
    s.linkSelected = false → (s.drive d).status.getLsbD 0 = true → (s.drive d).file = some h →
    s.ctl ≠ .rdLoop → s.ctl ≠ .rdNext →
      ∃ t ok, exec (.readTrack d) s = .next t ∧ SameImages s t ∧ CursorOnly h s t ∧
        (let r := s.drive d
         let change := r.trackPrev ≠ some r.track
         let sector : BitVec 4 := if change then 0 else r.sectorOffset
         let off := (r.track.toNat * 11 + sector.toNat) * 512
         t = { s with
           df := s.df.set d { r with trackPrev := some r.track, sectorOffset := sector }
           sector := sector, ctl := .rdLoop, store := t.store, storeIn := s.storeIn.tail, draws := s.draws + 1
           trace := s.trace ++ [.storeSeek d off ok] } ∧
         (ok = true → (fileAt t.store h).cursor = off) ∧
         (∀ a rest, s.storeIn = a :: rest → off ≤ (fileAt s.store h).size → ok = a.ok))

/-- R172, R173: one iteration of READ_TRACK's loop. The block at the cursor is read, a data session is opened, and if
the clamped live track is the drive's and the RD request is set, the sector goes out, after sector 10 with the gap. Of the
store only this file's cursor changes. When the read succeeds follows the model's Block Store, logs 5 and 8. -/
def Obligations.ReadLoopServes : Prop :=
  ∀ (d : DriveIx) (h : Handle) (s : State),
    s.linkSelected = false → (s.drive d).status.getLsbD 0 = true → (s.drive d).file = some h →
    (s.drive d).tracks ≠ 0 → s.ctl = .rdLoop → s.sector ≤ 10 →
      ∃ t ok, ∃ b0 b1 b2 b3 b4 b5 : Byte, exec (.readTrack d) s = .next t ∧ SameImages s t ∧ CursorOnly h s t ∧
        s.MayReceive [b0, b1, b2, b3, b4, b5] ∧
        (let f := fileAt s.store h
         let lt : Byte := BitVec.ofNat 8 (min b1.toNat ((s.drive d).tracks.toNat - 1))
         let asked : Word16 := b2 ++ b3
         let sync : Word16 := if asked = 0x0000 ∨ asked = 0x8914 ∨ asked = 0xA144 then 0x4489 else asked
         let sent : List Byte :=
           if lt = (s.drive d).track ∧ b0.getLsbD 0 = true then
             sectorBytes t.buf s.sector lt sync ++ (if s.sector = 10 then List.replicate 700 0xAA else [])
           else []
         t = { s with
           buf := t.buf, lsStatus := b0, lsTrack := b1, lsSync := asked, lsLen := b4.extractLsb' 0 6 ++ b5
           lsActive := b4.getLsbD 7, lt := lt, sync := sync, ctl := .rdNext, store := t.store
           linkIn := s.linkIn.drop 6, storeIn := s.storeIn.tail, draws := s.draws + 7
           trace := s.trace ++ [.storeRead d f.cursor ok, .linkSelect] ++ recvEvents [b0, b1, b2, b3, b4, b5] ++
             sendEvents sent ++ [.linkDeselect] } ∧
         (ok = true → (fileAt t.store h).cursor = f.cursor + 512 ∧
           ∀ i < 512, t.buf.bytes.getD i 0 = imageByte s h (f.cursor + i)) ∧
         (∀ a rest, s.storeIn = a :: rest → f.cursor % 512 = 0 → f.cursor + 512 ≤ f.size → ok = a.ok))

/-- R174, R175: READ_TRACK's exits, its advance, and its wrap after sector 10. Of the store only this file's cursor changes.
When the wrap's seek succeeds follows the model's Block Store, logs 5 and 8. -/
def Obligations.ReadNextExitsOrAdvances : Prop :=
  ∀ (d : DriveIx) (h : Handle) (s : State),
    s.linkSelected = false → (s.drive d).status.getLsbD 0 = true → (s.drive d).file = some h → s.ctl = .rdNext →
      (s.lt ≠ (s.drive d).track ∨ s.lsStatus.getLsbD 0 = false →
        exec (.readTrack d) s = .next { s with ctl := .idle }) ∧
      (s.lt = (s.drive d).track → s.lsStatus.getLsbD 0 = true → s.sector < 10 →
        exec (.readTrack d) s = .next { s with
          sector := s.sector + 1, ctl := .rdLoop
          df := s.df.set d { s.drive d with sectorOffset := s.sector + 1 } }) ∧
      (s.lt = (s.drive d).track → s.lsStatus.getLsbD 0 = true → s.sector = 10 →
        ∃ t ok, exec (.readTrack d) s = .next t ∧ SameImages s t ∧ CursorOnly h s t ∧
          t = { s with
            sector := 0, ctl := .rdLoop, df := s.df.set d { s.drive d with sectorOffset := 0 }
            store := t.store, storeIn := s.storeIn.tail, draws := s.draws + 1
            trace := s.trace ++ [.storeSeek d ((s.drive d).track.toNat * 11 * 512) ok] } ∧
          (ok = true → (fileAt t.store h).cursor = (s.drive d).track.toNat * 11 * 512) ∧
          (∀ a rest, s.storeIn = a :: rest → (s.drive d).track.toNat * 11 * 512 ≤ (fileAt s.store h).size → ok = a.ok))

/-- R101, R172 to R175: a whole revolution. From the loop at sector 0 with the cursor at the track start, while the
controller asks eleven times for the track and the store answers ok, 22 steps send the eleven sectors of the image in
order and the gap, 12668 bytes, and stand at sector 0 and the track start again. Two steps a sector are the model's choice
(log 10), the supply its form of the controller (log 3), and that answers of ok make the accesses succeed its Block Store
(logs 5, 8). -/
def Obligations.RevolutionSendsTrack : Prop :=
  ∀ (h : Handle) (s : State) (recs : List (List Byte)) (rest : List Byte),
    s.linkSelected = false → s.ctl = .rdLoop → s.sector = 0 →
    (s.drive s.sel).status.getLsbD 0 = true → (s.drive s.sel).file = some h →
    (s.drive s.sel).track < (s.drive s.sel).tracks →
    (fileAt s.store h).cursor = (s.drive s.sel).track.toNat * 5632 →
    (s.drive s.sel).track.toNat * 5632 + 5632 ≤ (fileAt s.store h).size →
    12 ≤ s.storeIn.length → (∀ a ∈ s.storeIn, a.ok = true) →
    recs.length = 11 →
    (∀ r ∈ recs, r.length = 6 ∧ (r.getD 0 0).getLsbD 0 = true ∧ r.getD 1 0 = (s.drive s.sel).track) →
    s.linkIn = recs.flatten ++ rest →
      ∃ t evs, Sys2Proof.core.run 22 s = .next t ∧ t.ctl = .rdLoop ∧ t.sector = 0 ∧ t.linkIn = rest ∧
        (fileAt t.store h).cursor = (s.drive s.sel).track.toNat * 5632 ∧ SameImages s t ∧
        t.trace = s.trace ++ evs ∧ (sentBytes evs).length = 12668 ∧
        sentBytes evs =
          ((List.range 11).map fun k =>
            sectorBytes (readCells (fileAt s.store h).cells ((s.drive s.sel).track.toNat * 5632 + k * 512))
              (BitVec.ofNat 4 k) (s.drive s.sel).track
              (substituteSync ((recs.getD k []).getD 2 0 ++ (recs.getD k []).getD 3 0))).flatten ++
          List.replicate 700 0xAA

/-- R106, R173: the substitution of requested sync words. -/
def Obligations.SyncSubstitution : Prop :=
  ∀ w : Word16, substituteSync w = if w = 0x0000 ∨ w = 0x8914 ∨ w = 0xA144 then 0x4489 else w

/-- R170 to R176, R238: a whole RDTRK in which the controller asks for nothing is four steps: LED on, a seek to the
track start, one read, one session of six exchanges, LED off. That these are four steps is the model's choice, log 10, and
the queue the command waits in its form of the CMD port, log 11; when the seek succeeds, logs 5 and 8. -/
def Obligations.RdtrkNothingWanted : Prop :=
  ∀ (sel : DriveIx) (h : Handle) (c1 c2 b0 b1 b2 b3 b4 b5 : Byte) (rest : List Byte) (s : State),
    s.ctl = .idle → s.linkSelected = false → c1.getLsbD 0 = true → c1.extractLsb' 6 2 = sel →
    (s.drive sel).status.getLsbD 0 = true → (s.drive sel).file = some h → (s.drive sel).tracks ≠ 0 →
    (s.drive sel).trackPrev = none → s.linkIn = b0 :: b1 :: b2 :: b3 :: b4 :: b5 :: rest → b0.getLsbD 0 = false →
      ∃ t ok1 ok2 cur, Sys2Proof.core.run 4 { s with events := .command c1 c2 :: s.events } = .next t ∧
        t.ctl = .idle ∧ t.led = false ∧ t.linkIn = rest ∧ t.events = s.events ∧ t.error = s.error ∧ SameImages s t ∧
        (let tr := min c2.toNat ((s.drive sel).tracks.toNat - 1)
         t.drive sel = { s.drive sel with
           track := BitVec.ofNat 8 tr, trackPrev := some (BitVec.ofNat 8 tr), sectorOffset := 0 } ∧
         t.trace = s.trace ++ [.ledOn, .storeSeek sel (tr * 11 * 512) ok1, .storeRead sel cur ok2, .linkSelect] ++
           recvEvents [b0, b1, b2, b3, b4, b5] ++ [.linkDeselect, .ledOff] ∧
         (ok1 = true → cur = tr * 11 * 512))

/-! ## The Track Writer -/

/-- R191: FIND_SYNC when it stops: six exchanges, not found, nothing else but the live-state registers. -/
def Obligations.FindSyncStops : Prop :=
  ∀ (d : DriveIx) (s : State), s.linkSelected = false →
    let b := fun k => (received 6 s).getD k 0
    (b 0).getLsbD 1 = false ∨ b 1 ≠ (s.drive d).track ∨
        (((b 4).extractLsb' 0 6 ++ b 5 : BitVec 14) = 0 ∧ (b 4).getLsbD 7 = false) →
      exec (.findSync d) s = .next { s with
        lsStatus := b 0, lsTrack := b 1, lsSync := b 2 ++ b 3, lsLen := (b 4).extractLsb' 0 6 ++ b 5
        lsActive := (b 4).getLsbD 7, found := false, ret := some false
        linkIn := s.linkIn.drop 6, draws := s.draws + 6
        trace := s.trace ++ [.linkSelect] ++ recvEvents (received 6 s) ++ [.linkDeselect] }

/-- R191: FIND_SYNC when it hunts: it takes words up to and with the first 0x44, 0x89, or the whole window, and then
polls again. -/
def Obligations.FindSyncHunts : Prop :=
  ∀ (d : DriveIx) (s : State), s.linkSelected = false →
    let b := fun k => (received 6 s).getD k 0
    let len := ((b 4).extractLsb' 0 6 ++ b 5 : BitVec 14)
    let window := (received (6 + 2 * len.toNat) s).drop 6
    let isSync := fun k => window.getD (2 * k) 0 = 0x44 ∧ window.getD (2 * k + 1) 0 = 0x89
    (b 0).getLsbD 1 = true → b 1 = (s.drive d).track → (len ≠ 0 ∨ (b 4).getLsbD 7 = true) →
      (∀ k, k < len.toNat → isSync k → (∀ j, j < k → ¬isSync j) →
        exec (.findSync d) s = .next { s with
          lsStatus := b 0, lsTrack := b 1, lsSync := b 2 ++ b 3, lsLen := len
          lsActive := (b 4).getLsbD 7, found := true, ret := some true
          linkIn := s.linkIn.drop (8 + 2 * k), draws := s.draws + (8 + 2 * k)
          trace := s.trace ++ [.linkSelect] ++ recvEvents (received (8 + 2 * k) s) ++ [.linkDeselect] }) ∧
      ((∀ j, j < len.toNat → ¬isSync j) →
        exec (.findSync d) s = .next { s with
          lsStatus := b 0, lsTrack := b 1, lsSync := b 2 ++ b 3, lsLen := len
          lsActive := (b 4).getLsbD 7, ret := none
          linkIn := s.linkIn.drop (6 + 2 * len.toNat), draws := s.draws + (6 + 2 * len.toNat)
          trace := s.trace ++ [.linkSelect] ++ recvEvents (received (6 + 2 * len.toNat) s) ++ [.linkDeselect] })

/-- R192: HEADER_STAGE is one session: a live-state read, then, in this order, silent abandonment, DECODE_HEADER with 25
words or more, error 20 when the supply has stopped, or another poll. Whatever is received it completes, and leaves all
outside the session's registers as it was. -/
def Obligations.HeaderStageSession : Prop :=
  ∀ s : State, s.linkSelected = false →
    (∃ t, exec .headerStage s = .next t ∧ t.linkSelected = false ∧ t.buf = s.buf ∧ t.found = s.found ∧
      t.seekDone = s.seekDone ∧ t.outsideSession = s.outsideSession) ∧
    ∃ q, exec .liveState { s with linkSelected := true, trace := s.trace ++ [.linkSelect] } = .next q ∧
      (q.lsStatus.getLsbD 1 = false →
        exec .headerStage s = .next { q with
          ret := some false, linkSelected := false, trace := q.trace ++ [.linkDeselect] }) ∧
      (q.lsStatus.getLsbD 1 = true → 25 ≤ q.lsLen.toNat →
        ∃ u, exec .decodeHeader q = .next u ∧
          exec .headerStage s = .next { u with linkSelected := false, trace := u.trace ++ [.linkDeselect] }) ∧
      (q.lsStatus.getLsbD 1 = true → q.lsLen.toNat < 25 → q.lsActive = false →
        exec .headerStage s = .next { q with
          error := 20, ret := some false, linkSelected := false, trace := q.trace ++ [.linkDeselect] }) ∧
      (q.lsStatus.getLsbD 1 = true → q.lsLen.toNat < 25 → q.lsActive = true →
        exec .headerStage s = .next { q with
          ret := none, linkSelected := false, trace := q.trace ++ [.linkDeselect] })

/-- R193: DATA_STAGE first seeks the header's sector and checks where the seek landed. If it landed, the stage goes on
from there; if not, ERR_SEEK is raised and no session is opened. Of the store only this file's cursor changes. When the
seek and the tell succeed follows the model's Block Store, logs 5 and 8. -/
def Obligations.DataStageSeeks : Prop :=
  ∀ (d : DriveIx) (h : Handle) (s : State),
    s.linkSelected = false → (s.drive d).file = some h → s.seekDone = false →
      ∃ q k p, SameImages s q ∧ CursorOnly h s q ∧
        (let off := ((s.drive d).track.toNat * 11 + s.hdrSector.toNat) * 512
         q = { s with
           off := off, store := q.store, storeIn := s.storeIn.drop 2, draws := s.draws + 2
           trace := s.trace ++ [.storeSeek d off k, .storeTell d p] } ∧
         (k = true → p = some off →
           (fileAt q.store h).cursor = off ∧
           exec (.dataStage d) s = exec (.dataStage d) { q with seekDone := true }) ∧
         (¬(k = true ∧ p = some off) →
           exec (.dataStage d) s = .next { q with error := Config.errSeek, ret := some false }) ∧
         (∀ a b rest, s.storeIn = a :: b :: rest → off ≤ (fileAt s.store h).size →
           k = a.ok ∧ (b.ok = true → a.ok = true → p = some off) ∧ (b.ok = false → p = none)))

/-- R193, R197: DATA_STAGE once it has sought is one session, with no new seek: silent abandonment, DECODE_DATA with 516
words or more, error 28 when the supply has stopped, or another poll. Whatever is received it completes, and leaves all
outside the session's registers as it was. -/
def Obligations.DataStageSession : Prop :=
  ∀ (d : DriveIx) (h : Handle) (s : State),
    s.linkSelected = false → (s.drive d).file = some h → s.seekDone = true →
    (∃ t, exec (.dataStage d) s = .next t ∧ t.linkSelected = false ∧ t.found = s.found ∧ t.hdrTrack = s.hdrTrack ∧
      t.hdrSector = s.hdrSector ∧ t.outsideSession = s.outsideSession) ∧
    ∃ q, exec .liveState { s with linkSelected := true, trace := s.trace ++ [.linkSelect] } = .next q ∧
      (q.lsStatus.getLsbD 1 = false →
        exec (.dataStage d) s = .next { q with
          ret := some false, seekDone := false, linkSelected := false, trace := q.trace ++ [.linkDeselect] }) ∧
      (q.lsStatus.getLsbD 1 = true → 516 ≤ q.lsLen.toNat →
        ∃ u, exec .decodeData q = .next u ∧
          exec (.dataStage d) s = .next { u with
            seekDone := false, linkSelected := false, trace := u.trace ++ [.linkDeselect] }) ∧
      (q.lsStatus.getLsbD 1 = true → q.lsLen.toNat < 516 → q.lsActive = false →
        exec (.dataStage d) s = .next { q with
          error := 28, ret := some false, seekDone := false, linkSelected := false
          trace := q.trace ++ [.linkDeselect] }) ∧
      (q.lsStatus.getLsbD 1 = true → q.lsLen.toNat < 516 → q.lsActive = true →
        exec (.dataStage d) s = .next { q with
          ret := none, linkSelected := false, trace := q.trace ++ [.linkDeselect] })

/-- R194, R39 (c), R75: COMMIT on a writable drive writes the Sector Buffer at the cursor, every other image byte of every
file as before, and lists the cursor as unflushed; a failed write raises ERR_WRITE. Whatever instruction changes a file's
unflushed writes is such a COMMIT or WRITE_TRACK's exit with an ok flush, which leaves none (the list, and that a failed
write stands in it and a failed flush keeps it: the model's choices, logs 6 and 23). When the write succeeds follows the
model's Block Store, logs 5 and 8. -/
def Obligations.CommitWritesSector : Prop :=
  (∀ (d : DriveIx) (h : Handle) (s : State),
    s.linkSelected = false → (s.drive d).status.getLsbD 4 = true → (s.drive d).file = some h →
      ∃ t ok, exec (.commit d) s = .next t ∧
        (let f := fileAt s.store h
         t = { s with
           store := t.store, storeIn := s.storeIn.tail, draws := s.draws + 1
           error := if ok then s.error else Config.errWrite, ret := if ok then s.ret else some false
           trace := s.trace ++ [.storeWrite d f.cursor ok] } ∧
         (ok = true → (fileAt t.store h).cursor = f.cursor + 512 ∧
           ∀ i < 512, imageByte t h (f.cursor + i) = s.buf.bytes.getD i 0) ∧
         (∀ (k : Handle) (a : Nat), k ≠ h ∨ a < f.cursor ∨ f.cursor + 512 ≤ a → imageByte t k a = imageByte s k a) ∧
         (∀ k, k ≠ h → fileAt t.store k = fileAt s.store k) ∧
         (fileAt t.store h).size = f.size ∧ (fileAt t.store h).unflushed = f.unflushed ++ [f.cursor] ∧
         (∀ a rest, s.storeIn = a :: rest → f.cursor % 512 = 0 → f.cursor + 512 ≤ f.size → ok = a.ok))) ∧
  ∀ (i : Instr) (s t : State) (k : Handle), exec i s = .next t →
    (fileAt t.store k).unflushed ≠ (fileAt s.store k).unflushed →
      ∃ d : DriveIx, (s.drive d).file = some k ∧
        (((i = .commit d ∨ (i = .writeTrack d ∧ s.ctl = .commit)) ∧ (s.drive d).status.getLsbD 4 = true ∧
            (fileAt t.store k).unflushed = (fileAt s.store k).unflushed ++ [(fileAt s.store k).cursor]) ∨
          (i = .writeTrack d ∧ s.ctl = .wrExit ∧ t.trace = s.trace ++ [.storeFlush d true] ∧
            (fileAt t.store k).unflushed = []))

/-- R194, E5: COMMIT on a protected drive raises 30 and leaves the Block Store unmodified. -/
def Obligations.CommitProtected : Prop :=
  ∀ (d : DriveIx) (s : State), s.linkSelected = false → (s.drive d).status.getLsbD 4 = false →
    exec (.commit d) s = .next { s with error := 30, ret := some false }

/-- R255: the storage error codes are nonzero, so WR_REPORT reports them. -/
def Obligations.StorageCodesNonzero : Prop := Config.errSeek ≠ 0 ∧ Config.errWrite ≠ 0

/-- R190, R195, R196: the writer's entry, its report and its exit. Of the store the exit's flush changes, when ok, only this
file's unflushed writes, and when it fails only its cursor. That it is ok when the store answers so, and that a failed one
keeps the list, are the model's choices, logs 5 and 23. -/
def Obligations.WriterEntryReportExit : Prop :=
  ∀ (d : DriveIx) (h : Handle) (s : State),
    s.linkSelected = false → (s.drive d).status.getLsbD 0 = true → (s.drive d).file = some h →
      (s.ctl = .wrEntry →
        exec (.writeTrack d) s = .next { s with
          ctl := .seekSync, df := s.df.set d { s.drive d with trackPrev := none } }) ∧
      (s.ctl = .wrReport → s.error ≠ 0 →
        exec (.writeTrack d) s = .next { s with
          ctl := .seekSync, error := 0, trace := s.trace ++ [.report Config.reportMsg s.error] }) ∧
      (s.ctl = .wrReport → s.error = 0 → exec (.writeTrack d) s = .next { s with ctl := .seekSync }) ∧
      (s.ctl = .wrExit →
        ∃ t ok, exec (.writeTrack d) s = .next t ∧ SameImages s t ∧
          t = { s with
            ctl := .idle, store := t.store, storeIn := s.storeIn.tail, draws := s.draws + 1
            trace := s.trace ++ [.storeFlush d ok] } ∧
          (∀ k, k ≠ h → fileAt t.store k = fileAt s.store k) ∧
          (ok = true → fileAt t.store h = { fileAt s.store h with unflushed := [] }) ∧
          (ok = false → fileAt t.store h = { fileAt s.store h with cursor := (fileAt t.store h).cursor }) ∧
          (∀ a rest, s.storeIn = a :: rest → ok = a.ok))

/-- R190, R192, R197: the writer's other phases run their stage and go where the transition table says. -/
def Obligations.WriterFollowsTable : Prop :=
  ∀ (d : DriveIx) (h : Handle) (s u : State),
    s.linkSelected = false → (s.drive d).status.getLsbD 0 = true → (s.drive d).file = some h →
      (s.ctl = .seekSync → exec (.findSync d) s = .next u →
        (u.ret = some true → exec (.writeTrack d) s = .next { u with ctl := .header, error := 0 }) ∧
        (u.ret = some false → exec (.writeTrack d) s = .next { u with ctl := .wrExit }) ∧
        (u.ret = none → exec (.writeTrack d) s = .next { u with ctl := .seekSync })) ∧
      (s.ctl = .header → exec .headerStage s = .next u →
        (u.ret = some true → u.hdrTrack = (s.drive d).track →
          exec (.writeTrack d) s = .next { u with ctl := .data, seekDone := false }) ∧
        (u.ret = some true → u.hdrTrack ≠ (s.drive d).track →
          exec (.writeTrack d) s = .next { u with ctl := .wrReport, error := 27, ret := some false }) ∧
        (u.ret = some false → exec (.writeTrack d) s = .next { u with ctl := .wrReport }) ∧
        (u.ret = none → exec (.writeTrack d) s = .next { u with ctl := .header })) ∧
      (s.ctl = .data → exec (.dataStage d) s = .next u →
        (u.ret = some true → exec (.writeTrack d) s = .next { u with ctl := .commit }) ∧
        (u.ret = some false → exec (.writeTrack d) s = .next { u with ctl := .wrReport }) ∧
        (u.ret = none → exec (.writeTrack d) s = .next { u with ctl := .data })) ∧
      (s.ctl = .commit → exec (.commit d) s = .next u →
        exec (.writeTrack d) s = .next { u with ctl := .wrReport })

/-- R190 (corner case), R196, R238: a whole WRTRK whose first hunt stops at once is four steps: LED on, one session of
six exchanges, one flush, LED off; the read cache is invalidated and no image byte changes. That these are four steps is
the model's choice, log 10, and the queue the command waits in its form of the CMD port, log 11. -/
def Obligations.WrtrkStopsAtOnce : Prop :=
  ∀ (sel : DriveIx) (h : Handle) (c1 c2 b0 b1 b2 b3 b4 b5 : Byte) (rest : List Byte) (s : State),
    s.ctl = .idle → s.linkSelected = false → c1.getLsbD 0 = false → c1.getLsbD 1 = true → c1.extractLsb' 6 2 = sel →
    (s.drive sel).status.getLsbD 0 = true → (s.drive sel).file = some h → (s.drive sel).tracks ≠ 0 →
    s.linkIn = b0 :: b1 :: b2 :: b3 :: b4 :: b5 :: rest → b0.getLsbD 1 = false →
      ∃ t ok, Sys2Proof.core.run 4 { s with events := .command c1 c2 :: s.events } = .next t ∧
        t.ctl = .idle ∧ t.led = false ∧ t.linkIn = rest ∧ t.events = s.events ∧ t.error = s.error ∧ SameImages s t ∧
        t.drive sel = { s.drive sel with
          track := BitVec.ofNat 8 (min c2.toNat ((s.drive sel).tracks.toNat - 1)), trackPrev := none } ∧
        t.trace = s.trace ++ [.ledOn, .linkSelect] ++ recvEvents [b0, b1, b2, b3, b4, b5] ++
          [.linkDeselect, .storeFlush sel ok, .ledOff]

/-! ## The machine as a whole -/

/-- R41, R280: what power-on leaves, where the spec gives a value. -/
def Obligations.PowerOnValues : Prop :=
  (∀ d, (State.reset.drive d).status = 0x00 ∧ (State.reset.drive d).file = none ∧
    (State.reset.drive d).trackPrev = none) ∧
  State.reset.error = 0 ∧ State.reset.ctl = .idle ∧ State.reset.linkSelected = false ∧ State.reset.led = false ∧
  State.reset.trace = []

/-- The invariant of the engine holds after power-on. It rests on the model's reset values, log 1, and marks, log 18. -/
def Obligations.ResetMeetsInvariant : Prop := State.reset.Inv

/-- R26, R28, R62, R170, R192, R193, R238, R266: every step keeps the invariant, from every state that has it. The model's
own in it: the store's form (log 7), the mark `seekDone` in seek_mark and writer_cursor (log 18), and that a sought offset
lies inside the file (log 8, unsafe). -/
def Obligations.StepKeepsInvariant : Prop := ∀ s t : State, s.Inv → step s = .next t → t.Inv

/-- R28: while a slot is mounted its track lies below its track count, and every instruction keeps that. -/
def Obligations.MountedTrackBelowCount : Prop :=
  (∀ d, (State.reset.drive d).status.getLsbD 0 = true → (State.reset.drive d).track < (State.reset.drive d).tracks) ∧
  ∀ (i : Instr) (s t : State),
    (∀ d, (s.drive d).status.getLsbD 0 = true → (s.drive d).track < (s.drive d).tracks) → exec i s = .next t →
      ∀ d, (t.drive d).status.getLsbD 0 = true → (t.drive d).track < (t.drive d).tracks

/-- R250: no error stops the engine: from every state with the invariant, with a waiting event inside the spec's
preconditions (U1: a track command names a mounted drive; U10: a mount has a track count), the step answers a next state. -/
def Obligations.StepNeverStops : Prop :=
  ∀ s : State, s.Inv → (s.ctl = .idle → s.EventOk) → ∃ t, step s = .next t

/-- R73, R194: an image byte changes only in COMMIT on a writable drive, in that drive's file, inside the sector the
header named on the drive's track. -/
def Obligations.ImageChangesOnlyInCommit : Prop :=
  ∀ (s t : State) (k : Handle) (a : Nat), s.Inv → step s = .next t → imageByte t k a ≠ imageByte s k a →
    s.ctl = .commit ∧ (s.drive s.sel).status.getLsbD 4 = true ∧ (s.drive s.sel).file = some k ∧
      ((s.drive s.sel).track.toNat * 11 + s.hdrSector.toNat) * 512 ≤ a ∧
      a < ((s.drive s.sel).track.toNat * 11 + s.hdrSector.toNat) * 512 + 512

/-- R73: while no drive is writable and no writable mount waits, no run of steps changes an image byte. -/
def Obligations.ProtectedRunWritesNothing : Prop :=
  ∀ (n : Nat) (s t : State), (∀ d, (s.drive d).status.getLsbD 4 = false) →
    (∀ e ∈ s.events, ∀ d f c, e ≠ .mount d f c true) → Sys2Proof.core.run n s = .next t → SameImages s t

/-- R21, R273: a step of a running operation leaves the other slots' records alone. -/
def Obligations.OtherSlotsUntouched : Prop :=
  ∀ (s t : State) (d : DriveIx), s.ctl.running = true → d ≠ s.sel → step s = .next t → t.drive d = s.drive d

/-- R31, R250: the reader never touches `Error`, and neither does any step in IDLE; R176, R234 to R237, R73: nor an image. -/
def Obligations.ReaderRaisesNothing : Prop :=
  ∀ s t : State, s.ctl.writing = false → step s = .next t → t.error = s.error ∧ SameImages s t

/-- Port events are only ever added, at the end. The list is the model's own record of what R9 and R74 call events, log 19. -/
def Obligations.TraceOnlyGrows : Prop :=
  ∀ (i : Instr) (s t : State), exec i s = .next t → ∃ evs, t.trace = s.trace ++ evs

/-- R294: no loop has a bound: from every state of the engine in the hunt, in HEADER, in DATA after its seek, or in the
reader's loop, for every n some controller keeps it there for n turns. A turn is one step, in the reader two (log 10). -/
def Obligations.LoopsHaveNoBound : Prop :=
  ∀ (n : Nat) (s : State), s.Inv →
    (s.ctl = .seekSync → ∃ (l : List Byte) (t : State),
      Sys2Proof.core.run n { s with linkIn := l } = .next t ∧ t.ctl = .seekSync) ∧
    (s.ctl = .header → ∃ (l : List Byte) (t : State),
      Sys2Proof.core.run n { s with linkIn := l } = .next t ∧ t.ctl = .header) ∧
    (s.ctl = .data → s.seekDone = true → ∃ (l : List Byte) (t : State),
      Sys2Proof.core.run n { s with linkIn := l } = .next t ∧ t.ctl = .data) ∧
    (s.ctl = .rdLoop → ∃ (l : List Byte) (t : State),
      Sys2Proof.core.run (2 * n) { s with linkIn := l } = .next t ∧ t.ctl = .rdLoop)
end

