-- ==== Sys2Proof/Laws/Word.lean ====
section
/-! SUPPORT. The small lemmas of Quad and Block. -/

namespace Sys2Proof

@[simp] theorem Quad.get_set_self {α : Type} (q : Quad α) (i : BitVec 2) (v : α) : (q.set i v).get i = v := by
  unfold Quad.get Quad.set; split_ifs <;> rfl

theorem Quad.get_set_of_ne {α : Type} (q : Quad α) {i j : BitVec 2} (v : α) (h : j ≠ i) :
    (q.set i v).get j = q.get j := by
  have last : ∀ k : BitVec 2, k ≠ 0 → k ≠ 1 → k ≠ 2 → k = 3 := by decide
  unfold Quad.get Quad.set
  split_ifs <;> simp_all

/-- Setting an index to what it already holds changes nothing. -/
theorem Quad.set_get {α : Type} (q : Quad α) (i : BitVec 2) : q.set i (q.get i) = q := by
  unfold Quad.get Quad.set; split_ifs <;> rfl

theorem Quad.get_eq_of_components {α : Type} {p : α → Prop} (q : Quad α) (h0 : p q.q0) (h1 : p q.q1) (h2 : p q.q2)
    (h3 : p q.q3) (i : BitVec 2) : p (q.get i) := by
  unfold Quad.get; split_ifs <;> assumption

@[simp] theorem Quad.toList_length {α : Type} (q : Quad α) : q.toList.length = 4 := rfl

@[simp] theorem Block.length_bytes (b : Block) : b.bytes.length = 512 := b.size_eq

theorem Block.ext_bytes {a b : Block} (h : a.bytes = b.bytes) : a = b := by
  cases a; cases b; simpa using h

theorem Block.ofList_bytes {l : List Byte} (h : l.length = 512) : (Block.ofList l).bytes = l := by
  show (l ++ List.replicate 512 0).take 512 = l
  rw [← h, List.take_left]

/-- Gathering a block's own bytes gives the block back. -/
theorem Block.ofList_bytes_self (b : Block) : Block.ofList b.bytes = b :=
  Block.ext_bytes (Block.ofList_bytes b.size_eq)

end Sys2Proof
end

