-- ==== Sys2Proof/Laws/Memory.lean ====
section
/-! SUPPORT. The laws of image memory and of the store: read after write, writes elsewhere, and the canonical form,
which every memory operation keeps and the reset state has. -/

namespace Sys2Proof.Machine

/-! ## One cell -/

theorem cellAt_of_not_mem {m : Memory} {a : Nat} (h : ∀ c ∈ m, c.1 ≠ a) : cellAt m a = Config.unlistedByte := by
  induction m with
  | nil => rfl
  | cons c rest ih =>
    have hc := h c (by simp)
    simp only [cellAt, if_neg hc]
    exact ih fun c hc => h c (by simp [hc])

theorem cellAt_append_left {l r : Memory} {a : Nat} (h : ∀ c ∈ r, c.1 ≠ a) : cellAt (l ++ r) a = cellAt l a := by
  induction l with
  | nil => simpa [cellAt] using cellAt_of_not_mem h
  | cons c rest ih => simp only [List.cons_append, cellAt, ih]

theorem cellAt_append_right {l r : Memory} {a : Nat} (h : ∀ c ∈ l, c.1 ≠ a) : cellAt (l ++ r) a = cellAt r a := by
  induction l with
  | nil => rfl
  | cons c rest ih =>
    simp only [List.cons_append, cellAt, if_neg (h c (by simp))]
    exact ih fun c hc => h c (by simp [hc])

theorem cellAt_filter {m : Memory} {p : Nat → Bool} {a : Nat} (h : p a = true) :
    cellAt (m.filter fun c => p c.1) a = cellAt m a := by
  induction m with
  | nil => rfl
  | cons c rest ih =>
    by_cases hp : p c.1 = true
    · simp only [List.filter_cons, hp, if_true, cellAt, ih]
    · have hne : c.1 ≠ a := fun e => hp (e ▸ h)
      simpa [List.filter_cons, hp, cellAt, hne] using ih

/-! ## Bytes laid out from an address -/

theorem cellsFrom_keys {a : Nat} {bs : List Byte} {c : Host.Cell} (h : c ∈ cellsFrom a bs) :
    a ≤ c.1 ∧ c.1 < a + bs.length := by
  induction bs generalizing a with
  | nil => simp [cellsFrom] at h
  | cons v rest ih =>
    simp only [List.length_cons]
    by_cases hv : v = Config.unlistedByte
    · simp only [cellsFrom, if_pos hv] at h; have := ih h; omega
    · simp only [cellsFrom, if_neg hv, List.mem_cons] at h
      rcases h with rfl | h
      · simp
      · have := ih h; omega

theorem cellsFrom_wf (a : Nat) (bs : List Byte) : Memory.wf (cellsFrom a bs) := by
  induction bs generalizing a with
  | nil => simp [cellsFrom, Memory.wf]
  | cons v rest ih =>
    by_cases hv : v = Config.unlistedByte
    · simpa only [cellsFrom, if_pos hv] using ih (a + 1)
    · simp only [cellsFrom, if_neg hv]
      refine ⟨List.pairwise_cons.2 ⟨fun c hc => ?_, (ih (a + 1)).1⟩, fun c hc => ?_⟩
      · have := cellsFrom_keys hc; simp only; omega
      · rcases List.mem_cons.1 hc with rfl | hc
        · exact hv
        · exact (ih (a + 1)).2 c hc

theorem cellAt_cellsFrom {a i : Nat} {bs : List Byte} (h : i < bs.length) :
    cellAt (cellsFrom a bs) (a + i) = bs[i] := by
  induction bs generalizing a i with
  | nil => simp at h
  | cons v rest ih =>
    cases i with
    | zero =>
      by_cases hv : v = Config.unlistedByte
      · simp only [cellsFrom, if_pos hv]
        rw [cellAt_of_not_mem]
        · exact hv.symm
        · intro c hc; have := cellsFrom_keys hc; omega
      · simp [cellsFrom, if_neg hv, cellAt]
    | succ i =>
      have hi : i < rest.length := by simpa using h
      have e : a + (i + 1) = a + 1 + i := by omega
      by_cases hv : v = Config.unlistedByte
      · simp only [cellsFrom, if_pos hv, e]; exact ih hi
      · have hne : a ≠ a + 1 + i := by omega
        simp only [cellsFrom, if_neg hv, e, cellAt, if_neg hne]; exact ih hi

/-! ## Writing a block -/

/-- A write leaves every byte outside its 512 alone. -/
theorem cellAt_writeCells_outside {m : Memory} {size off a : Nat} {blk : Block} (h : a < off ∨ off + 512 ≤ a) :
    cellAt (writeCells m size off blk) a = cellAt m a := by
  have hmid : ∀ c ∈ (cellsFrom off blk.bytes).filter (fun c => decide (c.1 < size)), c.1 ≠ a := by
    intro c hc
    have := cellsFrom_keys (List.mem_filter.1 hc).1
    rw [blk.size_eq] at this; omega
  unfold writeCells
  rcases h with h | h
  · rw [cellAt_append_left, cellAt_append_left hmid]
    · exact cellAt_filter (p := fun k => decide (k < off)) (by simpa using h)
    · intro c hc; have := (List.mem_filter.1 hc).2; simp only [decide_eq_true_eq] at this; omega
  · rw [List.append_assoc, cellAt_append_right, cellAt_append_right hmid]
    · exact cellAt_filter (p := fun k => decide (off + 512 ≤ k)) (by simpa using h)
    · intro c hc; have := (List.mem_filter.1 hc).2; simp only [decide_eq_true_eq] at this; omega

/-- A written byte inside the file reads back. -/
theorem cellAt_writeCells_inside {m : Memory} {size off i : Nat} {blk : Block} (h : i < 512) (hs : off + i < size) :
    cellAt (writeCells m size off blk) (off + i) = blk.bytes[i]'(by simpa using h) := by
  unfold writeCells
  rw [cellAt_append_left, cellAt_append_right]
  · rw [cellAt_filter (p := fun k => decide (k < size)) (by simpa using hs)]
    exact cellAt_cellsFrom _
  · intro c hc; have := (List.mem_filter.1 hc).2; simp only [decide_eq_true_eq] at this; omega
  · intro c hc; have := (List.mem_filter.1 hc).2; simp only [decide_eq_true_eq] at this; omega

/-- A write keeps the canonical form. -/
theorem writeCells_wf {m : Memory} (h : Memory.wf m) (size off : Nat) (blk : Block) :
    Memory.wf (writeCells m size off blk) := by
  have hmid := cellsFrom_wf off blk.bytes
  have hkeys : ∀ c ∈ cellsFrom off blk.bytes, off ≤ c.1 ∧ c.1 < off + 512 := fun c hc => by
    have := cellsFrom_keys hc; rwa [blk.size_eq] at this
  refine ⟨?_, fun c hc => ?_⟩
  · unfold writeCells
    rw [List.append_assoc, List.pairwise_append]
    refine ⟨h.1.filter _, ?_, fun x hx y hy => ?_⟩
    · rw [List.pairwise_append]
      refine ⟨hmid.1.filter _, h.1.filter _, fun x hx y hy => ?_⟩
      have hx := hkeys x (List.mem_filter.1 hx).1
      have hy := (List.mem_filter.1 hy).2
      simp only [decide_eq_true_eq] at hy; omega
    · have hx := (List.mem_filter.1 hx).2
      simp only [decide_eq_true_eq] at hx
      rcases List.mem_append.1 hy with hy | hy
      · have := hkeys y (List.mem_filter.1 hy).1; omega
      · have := (List.mem_filter.1 hy).2; simp only [decide_eq_true_eq] at this; omega
  · unfold writeCells at hc
    rcases List.mem_append.1 hc with hc | hc
    · rcases List.mem_append.1 hc with hc | hc
      · exact h.2 c (List.mem_filter.1 hc).1
      · exact hmid.2 c (List.mem_filter.1 hc).1
    · exact h.2 c (List.mem_filter.1 hc).1

/-- A write keeps a file's bytes inside its length. -/
theorem writeCells_lt {m : Memory} {size : Nat} (h : ∀ c ∈ m, c.1 < size) (off : Nat) (blk : Block) :
    ∀ c ∈ writeCells m size off blk, c.1 < size := by
  intro c hc
  unfold writeCells at hc
  rcases List.mem_append.1 hc with hc | hc
  · rcases List.mem_append.1 hc with hc | hc
    · exact h c (List.mem_filter.1 hc).1
    · simpa using (List.mem_filter.1 hc).2
  · exact h c (List.mem_filter.1 hc).1

/-- A block written and read back at the same place. -/
theorem readCells_writeCells {m : Memory} {size off : Nat} {blk : Block} (hs : off + 512 ≤ size) :
    readCells (writeCells m size off blk) off = blk := by
  apply Block.ext_bytes
  unfold readCells
  rw [Block.ofList_bytes (by simp)]
  apply List.ext_getElem
  · simp
  · intro i h1 h2
    have hi : i < 512 := by simpa using h2
    simp only [List.getElem_map, List.getElem_range]
    exact cellAt_writeCells_inside hi (by omega)

/-! ## Files of the store -/

theorem fileAt_of_not_mem {st : Store} {h : Nat} (hn : ∀ x ∈ st, x.1 ≠ h) : fileAt st h = StoreFile.blank := by
  induction st with
  | nil => rfl
  | cons x rest ih =>
    simp only [fileAt, if_neg (hn x (by simp))]
    exact ih fun y hy => hn y (by simp [hy])

theorem fileAt_append_left {l r : Store} {h : Nat} (hn : ∀ x ∈ r, x.1 ≠ h) : fileAt (l ++ r) h = fileAt l h := by
  induction l with
  | nil => simpa [fileAt] using fileAt_of_not_mem hn
  | cons x rest ih => simp only [List.cons_append, fileAt, ih]

theorem fileAt_append_right {l r : Store} {h : Nat} (hn : ∀ x ∈ l, x.1 ≠ h) : fileAt (l ++ r) h = fileAt r h := by
  induction l with
  | nil => rfl
  | cons x rest ih =>
    simp only [List.cons_append, fileAt, if_neg (hn x (by simp))]
    exact ih fun y hy => hn y (by simp [hy])

theorem fileAt_filter {st : Store} {p : Nat → Bool} {h : Nat} (hp : p h = true) :
    fileAt (st.filter fun x => p x.1) h = fileAt st h := by
  induction st with
  | nil => rfl
  | cons x rest ih =>
    by_cases hx : p x.1 = true
    · simp only [List.filter_cons, hx, if_true, fileAt, ih]
    · have hne : x.1 ≠ h := fun e => hx (e ▸ hp)
      simpa [List.filter_cons, hx, fileAt, hne] using ih

@[simp] theorem fileAt_setFile_self (st : Store) (h : Nat) (f : StoreFile) : fileAt (setFile st h f) h = f := by
  have hr : ∀ x ∈ st.filter (fun x => decide (h < x.1)), x.1 ≠ h := fun x hx => by
    have := (List.mem_filter.1 hx).2; simp only [decide_eq_true_eq] at this; omega
  have hl : ∀ x ∈ st.filter (fun x => decide (x.1 < h)), x.1 ≠ h := fun x hx => by
    have := (List.mem_filter.1 hx).2; simp only [decide_eq_true_eq] at this; omega
  unfold setFile
  rw [fileAt_append_left hr, fileAt_append_right hl]
  split
  · next e => rw [e]; rfl
  · simp [fileAt]

theorem fileAt_setFile_of_ne (st : Store) {h k : Nat} (f : StoreFile) (hk : k ≠ h) :
    fileAt (setFile st h f) k = fileAt st k := by
  have hm : ∀ x ∈ (if f = StoreFile.blank then [] else [(h, f)]), x.1 ≠ k := by
    intro x hx; split at hx
    · simp at hx
    · simp at hx; subst hx; exact fun e => hk e.symm
  unfold setFile
  rcases Nat.lt_or_gt_of_ne hk with hlt | hgt
  · rw [fileAt_append_left, fileAt_append_left hm]
    · exact fileAt_filter (p := fun x => decide (x < h)) (by simpa using hlt)
    · intro x hx; have := (List.mem_filter.1 hx).2; simp only [decide_eq_true_eq] at this; omega
  · rw [List.append_assoc, fileAt_append_right, fileAt_append_right hm]
    · exact fileAt_filter (p := fun x => decide (h < x)) (by simpa using hgt)
    · intro x hx; have := (List.mem_filter.1 hx).2; simp only [decide_eq_true_eq] at this; omega

theorem fileAt_wf {st : Store} (h : Store.wf st) (k : Nat) : (fileAt st k).wf := by
  have blank : StoreFile.blank.wf := by
    refine ⟨⟨?_, ?_⟩, ?_⟩ <;> simp [StoreFile.blank]
  obtain ⟨-, h⟩ := h
  induction st with
  | nil => exact blank
  | cons x rest ih =>
    simp only [fileAt]
    split
    · exact (h x (by simp)).2
    · exact ih fun y hy => h y (by simp [hy])

/-- Replacing a file by one in canonical form keeps the store's canonical form. -/
theorem setFile_wf {st : Store} (hst : Store.wf st) (h : Nat) {f : StoreFile} (hf : f.wf) :
    Store.wf (setFile st h f) := by
  obtain ⟨hp, ha⟩ := hst
  have hm : ∀ x ∈ (if f = StoreFile.blank then [] else [(h, f)]), x = (h, f) ∧ f ≠ StoreFile.blank := by
    intro x hx
    split at hx
    · simp at hx
    · next hb => simp at hx; exact ⟨hx, hb⟩
  refine ⟨?_, fun x hx => ?_⟩
  · unfold setFile
    rw [List.append_assoc, List.pairwise_append]
    refine ⟨hp.filter _, ?_, fun x hx y hy => ?_⟩
    · rw [List.pairwise_append]
      refine ⟨by split <;> simp, hp.filter _, fun x hx y hy => ?_⟩
      have hx := (hm x hx).1; subst hx
      simpa using (List.mem_filter.1 hy).2
    · have hx := (List.mem_filter.1 hx).2
      simp only [decide_eq_true_eq] at hx
      rcases List.mem_append.1 hy with hy | hy
      · have hy := (hm y hy).1; subst hy; exact hx
      · have := (List.mem_filter.1 hy).2; simp only [decide_eq_true_eq] at this; omega
  · unfold setFile at hx
    rcases List.mem_append.1 hx with hx | hx
    · rcases List.mem_append.1 hx with hx | hx
      · exact ha x (List.mem_filter.1 hx).1
      · obtain ⟨rfl, hb⟩ := hm x hx; exact ⟨hb, hf⟩
    · exact ha x (List.mem_filter.1 hx).1

/-- The reset state's memory has the canonical form. -/
theorem reset_store_wf : Store.wf State.reset.store := by
  simp [State.reset, Store.wf]

end Sys2Proof.Machine
end

