-- ==== Sys2Proof/Laws/State.lean ====
section
/-! SUPPORT. One lemma per field per named update, each true by unfolding, so that no later proof unfolds a record
update. A field with no lemma for an update is the one that update's own lemma in Laws/Ops.lean is about. -/

namespace Sys2Proof.Machine

/-! ## setDrive -/

@[simp] theorem setDrive_df (d : DriveIx) (r : DriveState) (s : State) :
    (setDrive d r s).df = s.df.set d r := rfl
@[simp] theorem setDrive_buf (d : DriveIx) (r : DriveState) (s : State) :
    (setDrive d r s).buf = s.buf := rfl
@[simp] theorem setDrive_error (d : DriveIx) (r : DriveState) (s : State) :
    (setDrive d r s).error = s.error := rfl
@[simp] theorem setDrive_ctl (d : DriveIx) (r : DriveState) (s : State) :
    (setDrive d r s).ctl = s.ctl := rfl
@[simp] theorem setDrive_drives (d : DriveIx) (r : DriveState) (s : State) :
    (setDrive d r s).drives = s.drives := rfl
@[simp] theorem setDrive_sel (d : DriveIx) (r : DriveState) (s : State) :
    (setDrive d r s).sel = s.sel := rfl
@[simp] theorem setDrive_sector (d : DriveIx) (r : DriveState) (s : State) :
    (setDrive d r s).sector = s.sector := rfl
@[simp] theorem setDrive_lsStatus (d : DriveIx) (r : DriveState) (s : State) :
    (setDrive d r s).lsStatus = s.lsStatus := rfl
@[simp] theorem setDrive_lsTrack (d : DriveIx) (r : DriveState) (s : State) :
    (setDrive d r s).lsTrack = s.lsTrack := rfl
@[simp] theorem setDrive_lsSync (d : DriveIx) (r : DriveState) (s : State) :
    (setDrive d r s).lsSync = s.lsSync := rfl
@[simp] theorem setDrive_lsLen (d : DriveIx) (r : DriveState) (s : State) :
    (setDrive d r s).lsLen = s.lsLen := rfl
@[simp] theorem setDrive_lsActive (d : DriveIx) (r : DriveState) (s : State) :
    (setDrive d r s).lsActive = s.lsActive := rfl
@[simp] theorem setDrive_lt (d : DriveIx) (r : DriveState) (s : State) :
    (setDrive d r s).lt = s.lt := rfl
@[simp] theorem setDrive_sync (d : DriveIx) (r : DriveState) (s : State) :
    (setDrive d r s).sync = s.sync := rfl
@[simp] theorem setDrive_found (d : DriveIx) (r : DriveState) (s : State) :
    (setDrive d r s).found = s.found := rfl
@[simp] theorem setDrive_off (d : DriveIx) (r : DriveState) (s : State) :
    (setDrive d r s).off = s.off := rfl
@[simp] theorem setDrive_hdrTrack (d : DriveIx) (r : DriveState) (s : State) :
    (setDrive d r s).hdrTrack = s.hdrTrack := rfl
@[simp] theorem setDrive_hdrSector (d : DriveIx) (r : DriveState) (s : State) :
    (setDrive d r s).hdrSector = s.hdrSector := rfl
@[simp] theorem setDrive_b (d : DriveIx) (r : DriveState) (s : State) :
    (setDrive d r s).b = s.b := rfl
@[simp] theorem setDrive_lane (d : DriveIx) (r : DriveState) (s : State) :
    (setDrive d r s).lane = s.lane := rfl
@[simp] theorem setDrive_cks (d : DriveIx) (r : DriveState) (s : State) :
    (setDrive d r s).cks = s.cks := rfl
@[simp] theorem setDrive_o (d : DriveIx) (r : DriveState) (s : State) :
    (setDrive d r s).o = s.o := rfl
@[simp] theorem setDrive_e (d : DriveIx) (r : DriveState) (s : State) :
    (setDrive d r s).e = s.e := rfl
@[simp] theorem setDrive_wo (d : DriveIx) (r : DriveState) (s : State) :
    (setDrive d r s).wo = s.wo := rfl
@[simp] theorem setDrive_we (d : DriveIx) (r : DriveState) (s : State) :
    (setDrive d r s).we = s.we := rfl
@[simp] theorem setDrive_linkSelected (d : DriveIx) (r : DriveState) (s : State) :
    (setDrive d r s).linkSelected = s.linkSelected := rfl
@[simp] theorem setDrive_led (d : DriveIx) (r : DriveState) (s : State) :
    (setDrive d r s).led = s.led := rfl
@[simp] theorem setDrive_store (d : DriveIx) (r : DriveState) (s : State) :
    (setDrive d r s).store = s.store := rfl
@[simp] theorem setDrive_events (d : DriveIx) (r : DriveState) (s : State) :
    (setDrive d r s).events = s.events := rfl
@[simp] theorem setDrive_linkIn (d : DriveIx) (r : DriveState) (s : State) :
    (setDrive d r s).linkIn = s.linkIn := rfl
@[simp] theorem setDrive_storeIn (d : DriveIx) (r : DriveState) (s : State) :
    (setDrive d r s).storeIn = s.storeIn := rfl
@[simp] theorem setDrive_draws (d : DriveIx) (r : DriveState) (s : State) :
    (setDrive d r s).draws = s.draws := rfl
@[simp] theorem setDrive_trace (d : DriveIx) (r : DriveState) (s : State) :
    (setDrive d r s).trace = s.trace := rfl
@[simp] theorem setDrive_ret (d : DriveIx) (r : DriveState) (s : State) :
    (setDrive d r s).ret = s.ret := rfl
@[simp] theorem setDrive_seekDone (d : DriveIx) (r : DriveState) (s : State) :
    (setDrive d r s).seekDone = s.seekDone := rfl

/-! ## linkSelect -/

@[simp] theorem linkSelect_df (s : State) :
    (linkSelect s).df = s.df := rfl
@[simp] theorem linkSelect_buf (s : State) :
    (linkSelect s).buf = s.buf := rfl
@[simp] theorem linkSelect_error (s : State) :
    (linkSelect s).error = s.error := rfl
@[simp] theorem linkSelect_ctl (s : State) :
    (linkSelect s).ctl = s.ctl := rfl
@[simp] theorem linkSelect_drives (s : State) :
    (linkSelect s).drives = s.drives := rfl
@[simp] theorem linkSelect_sel (s : State) :
    (linkSelect s).sel = s.sel := rfl
@[simp] theorem linkSelect_sector (s : State) :
    (linkSelect s).sector = s.sector := rfl
@[simp] theorem linkSelect_lsStatus (s : State) :
    (linkSelect s).lsStatus = s.lsStatus := rfl
@[simp] theorem linkSelect_lsTrack (s : State) :
    (linkSelect s).lsTrack = s.lsTrack := rfl
@[simp] theorem linkSelect_lsSync (s : State) :
    (linkSelect s).lsSync = s.lsSync := rfl
@[simp] theorem linkSelect_lsLen (s : State) :
    (linkSelect s).lsLen = s.lsLen := rfl
@[simp] theorem linkSelect_lsActive (s : State) :
    (linkSelect s).lsActive = s.lsActive := rfl
@[simp] theorem linkSelect_lt (s : State) :
    (linkSelect s).lt = s.lt := rfl
@[simp] theorem linkSelect_sync (s : State) :
    (linkSelect s).sync = s.sync := rfl
@[simp] theorem linkSelect_found (s : State) :
    (linkSelect s).found = s.found := rfl
@[simp] theorem linkSelect_off (s : State) :
    (linkSelect s).off = s.off := rfl
@[simp] theorem linkSelect_hdrTrack (s : State) :
    (linkSelect s).hdrTrack = s.hdrTrack := rfl
@[simp] theorem linkSelect_hdrSector (s : State) :
    (linkSelect s).hdrSector = s.hdrSector := rfl
@[simp] theorem linkSelect_b (s : State) :
    (linkSelect s).b = s.b := rfl
@[simp] theorem linkSelect_lane (s : State) :
    (linkSelect s).lane = s.lane := rfl
@[simp] theorem linkSelect_cks (s : State) :
    (linkSelect s).cks = s.cks := rfl
@[simp] theorem linkSelect_o (s : State) :
    (linkSelect s).o = s.o := rfl
@[simp] theorem linkSelect_e (s : State) :
    (linkSelect s).e = s.e := rfl
@[simp] theorem linkSelect_wo (s : State) :
    (linkSelect s).wo = s.wo := rfl
@[simp] theorem linkSelect_we (s : State) :
    (linkSelect s).we = s.we := rfl
@[simp] theorem linkSelect_linkSelected (s : State) :
    (linkSelect s).linkSelected = true := rfl
@[simp] theorem linkSelect_led (s : State) :
    (linkSelect s).led = s.led := rfl
@[simp] theorem linkSelect_store (s : State) :
    (linkSelect s).store = s.store := rfl
@[simp] theorem linkSelect_events (s : State) :
    (linkSelect s).events = s.events := rfl
@[simp] theorem linkSelect_linkIn (s : State) :
    (linkSelect s).linkIn = s.linkIn := rfl
@[simp] theorem linkSelect_storeIn (s : State) :
    (linkSelect s).storeIn = s.storeIn := rfl
@[simp] theorem linkSelect_draws (s : State) :
    (linkSelect s).draws = s.draws := rfl
@[simp] theorem linkSelect_trace (s : State) :
    (linkSelect s).trace = s.trace ++ [.linkSelect] := rfl
@[simp] theorem linkSelect_ret (s : State) :
    (linkSelect s).ret = s.ret := rfl
@[simp] theorem linkSelect_seekDone (s : State) :
    (linkSelect s).seekDone = s.seekDone := rfl

/-! ## linkDeselect -/

@[simp] theorem linkDeselect_df (s : State) :
    (linkDeselect s).df = s.df := rfl
@[simp] theorem linkDeselect_buf (s : State) :
    (linkDeselect s).buf = s.buf := rfl
@[simp] theorem linkDeselect_error (s : State) :
    (linkDeselect s).error = s.error := rfl
@[simp] theorem linkDeselect_ctl (s : State) :
    (linkDeselect s).ctl = s.ctl := rfl
@[simp] theorem linkDeselect_drives (s : State) :
    (linkDeselect s).drives = s.drives := rfl
@[simp] theorem linkDeselect_sel (s : State) :
    (linkDeselect s).sel = s.sel := rfl
@[simp] theorem linkDeselect_sector (s : State) :
    (linkDeselect s).sector = s.sector := rfl
@[simp] theorem linkDeselect_lsStatus (s : State) :
    (linkDeselect s).lsStatus = s.lsStatus := rfl
@[simp] theorem linkDeselect_lsTrack (s : State) :
    (linkDeselect s).lsTrack = s.lsTrack := rfl
@[simp] theorem linkDeselect_lsSync (s : State) :
    (linkDeselect s).lsSync = s.lsSync := rfl
@[simp] theorem linkDeselect_lsLen (s : State) :
    (linkDeselect s).lsLen = s.lsLen := rfl
@[simp] theorem linkDeselect_lsActive (s : State) :
    (linkDeselect s).lsActive = s.lsActive := rfl
@[simp] theorem linkDeselect_lt (s : State) :
    (linkDeselect s).lt = s.lt := rfl
@[simp] theorem linkDeselect_sync (s : State) :
    (linkDeselect s).sync = s.sync := rfl
@[simp] theorem linkDeselect_found (s : State) :
    (linkDeselect s).found = s.found := rfl
@[simp] theorem linkDeselect_off (s : State) :
    (linkDeselect s).off = s.off := rfl
@[simp] theorem linkDeselect_hdrTrack (s : State) :
    (linkDeselect s).hdrTrack = s.hdrTrack := rfl
@[simp] theorem linkDeselect_hdrSector (s : State) :
    (linkDeselect s).hdrSector = s.hdrSector := rfl
@[simp] theorem linkDeselect_b (s : State) :
    (linkDeselect s).b = s.b := rfl
@[simp] theorem linkDeselect_lane (s : State) :
    (linkDeselect s).lane = s.lane := rfl
@[simp] theorem linkDeselect_cks (s : State) :
    (linkDeselect s).cks = s.cks := rfl
@[simp] theorem linkDeselect_o (s : State) :
    (linkDeselect s).o = s.o := rfl
@[simp] theorem linkDeselect_e (s : State) :
    (linkDeselect s).e = s.e := rfl
@[simp] theorem linkDeselect_wo (s : State) :
    (linkDeselect s).wo = s.wo := rfl
@[simp] theorem linkDeselect_we (s : State) :
    (linkDeselect s).we = s.we := rfl
@[simp] theorem linkDeselect_linkSelected (s : State) :
    (linkDeselect s).linkSelected = false := rfl
@[simp] theorem linkDeselect_led (s : State) :
    (linkDeselect s).led = s.led := rfl
@[simp] theorem linkDeselect_store (s : State) :
    (linkDeselect s).store = s.store := rfl
@[simp] theorem linkDeselect_events (s : State) :
    (linkDeselect s).events = s.events := rfl
@[simp] theorem linkDeselect_linkIn (s : State) :
    (linkDeselect s).linkIn = s.linkIn := rfl
@[simp] theorem linkDeselect_storeIn (s : State) :
    (linkDeselect s).storeIn = s.storeIn := rfl
@[simp] theorem linkDeselect_draws (s : State) :
    (linkDeselect s).draws = s.draws := rfl
@[simp] theorem linkDeselect_trace (s : State) :
    (linkDeselect s).trace = s.trace ++ [.linkDeselect] := rfl
@[simp] theorem linkDeselect_ret (s : State) :
    (linkDeselect s).ret = s.ret := rfl
@[simp] theorem linkDeselect_seekDone (s : State) :
    (linkDeselect s).seekDone = s.seekDone := rfl

/-! ## send -/

@[simp] theorem send_df (bs : List Byte) (s : State) :
    (send bs s).df = s.df := rfl
@[simp] theorem send_buf (bs : List Byte) (s : State) :
    (send bs s).buf = s.buf := rfl
@[simp] theorem send_error (bs : List Byte) (s : State) :
    (send bs s).error = s.error := rfl
@[simp] theorem send_ctl (bs : List Byte) (s : State) :
    (send bs s).ctl = s.ctl := rfl
@[simp] theorem send_drives (bs : List Byte) (s : State) :
    (send bs s).drives = s.drives := rfl
@[simp] theorem send_sel (bs : List Byte) (s : State) :
    (send bs s).sel = s.sel := rfl
@[simp] theorem send_sector (bs : List Byte) (s : State) :
    (send bs s).sector = s.sector := rfl
@[simp] theorem send_lsStatus (bs : List Byte) (s : State) :
    (send bs s).lsStatus = s.lsStatus := rfl
@[simp] theorem send_lsTrack (bs : List Byte) (s : State) :
    (send bs s).lsTrack = s.lsTrack := rfl
@[simp] theorem send_lsSync (bs : List Byte) (s : State) :
    (send bs s).lsSync = s.lsSync := rfl
@[simp] theorem send_lsLen (bs : List Byte) (s : State) :
    (send bs s).lsLen = s.lsLen := rfl
@[simp] theorem send_lsActive (bs : List Byte) (s : State) :
    (send bs s).lsActive = s.lsActive := rfl
@[simp] theorem send_lt (bs : List Byte) (s : State) :
    (send bs s).lt = s.lt := rfl
@[simp] theorem send_sync (bs : List Byte) (s : State) :
    (send bs s).sync = s.sync := rfl
@[simp] theorem send_found (bs : List Byte) (s : State) :
    (send bs s).found = s.found := rfl
@[simp] theorem send_off (bs : List Byte) (s : State) :
    (send bs s).off = s.off := rfl
@[simp] theorem send_hdrTrack (bs : List Byte) (s : State) :
    (send bs s).hdrTrack = s.hdrTrack := rfl
@[simp] theorem send_hdrSector (bs : List Byte) (s : State) :
    (send bs s).hdrSector = s.hdrSector := rfl
@[simp] theorem send_b (bs : List Byte) (s : State) :
    (send bs s).b = s.b := rfl
@[simp] theorem send_lane (bs : List Byte) (s : State) :
    (send bs s).lane = s.lane := rfl
@[simp] theorem send_cks (bs : List Byte) (s : State) :
    (send bs s).cks = s.cks := rfl
@[simp] theorem send_o (bs : List Byte) (s : State) :
    (send bs s).o = s.o := rfl
@[simp] theorem send_e (bs : List Byte) (s : State) :
    (send bs s).e = s.e := rfl
@[simp] theorem send_wo (bs : List Byte) (s : State) :
    (send bs s).wo = s.wo := rfl
@[simp] theorem send_we (bs : List Byte) (s : State) :
    (send bs s).we = s.we := rfl
@[simp] theorem send_linkSelected (bs : List Byte) (s : State) :
    (send bs s).linkSelected = s.linkSelected := rfl
@[simp] theorem send_led (bs : List Byte) (s : State) :
    (send bs s).led = s.led := rfl
@[simp] theorem send_store (bs : List Byte) (s : State) :
    (send bs s).store = s.store := rfl
@[simp] theorem send_events (bs : List Byte) (s : State) :
    (send bs s).events = s.events := rfl
@[simp] theorem send_linkIn (bs : List Byte) (s : State) :
    (send bs s).linkIn = s.linkIn := rfl
@[simp] theorem send_storeIn (bs : List Byte) (s : State) :
    (send bs s).storeIn = s.storeIn := rfl
@[simp] theorem send_draws (bs : List Byte) (s : State) :
    (send bs s).draws = s.draws := rfl
@[simp] theorem send_trace (bs : List Byte) (s : State) :
    (send bs s).trace = s.trace ++ bs.map fun b => PortEvent.xfer b none := rfl
@[simp] theorem send_ret (bs : List Byte) (s : State) :
    (send bs s).ret = s.ret := rfl
@[simp] theorem send_seekDone (bs : List Byte) (s : State) :
    (send bs s).seekDone = s.seekDone := rfl

/-! ## recv -/

@[simp] theorem recv_df (n : Nat) (s : State) :
    (recv n s).df = s.df := rfl
@[simp] theorem recv_buf (n : Nat) (s : State) :
    (recv n s).buf = s.buf := rfl
@[simp] theorem recv_error (n : Nat) (s : State) :
    (recv n s).error = s.error := rfl
@[simp] theorem recv_ctl (n : Nat) (s : State) :
    (recv n s).ctl = s.ctl := rfl
@[simp] theorem recv_drives (n : Nat) (s : State) :
    (recv n s).drives = s.drives := rfl
@[simp] theorem recv_sel (n : Nat) (s : State) :
    (recv n s).sel = s.sel := rfl
@[simp] theorem recv_sector (n : Nat) (s : State) :
    (recv n s).sector = s.sector := rfl
@[simp] theorem recv_lsStatus (n : Nat) (s : State) :
    (recv n s).lsStatus = s.lsStatus := rfl
@[simp] theorem recv_lsTrack (n : Nat) (s : State) :
    (recv n s).lsTrack = s.lsTrack := rfl
@[simp] theorem recv_lsSync (n : Nat) (s : State) :
    (recv n s).lsSync = s.lsSync := rfl
@[simp] theorem recv_lsLen (n : Nat) (s : State) :
    (recv n s).lsLen = s.lsLen := rfl
@[simp] theorem recv_lsActive (n : Nat) (s : State) :
    (recv n s).lsActive = s.lsActive := rfl
@[simp] theorem recv_lt (n : Nat) (s : State) :
    (recv n s).lt = s.lt := rfl
@[simp] theorem recv_sync (n : Nat) (s : State) :
    (recv n s).sync = s.sync := rfl
@[simp] theorem recv_found (n : Nat) (s : State) :
    (recv n s).found = s.found := rfl
@[simp] theorem recv_off (n : Nat) (s : State) :
    (recv n s).off = s.off := rfl
@[simp] theorem recv_hdrTrack (n : Nat) (s : State) :
    (recv n s).hdrTrack = s.hdrTrack := rfl
@[simp] theorem recv_hdrSector (n : Nat) (s : State) :
    (recv n s).hdrSector = s.hdrSector := rfl
@[simp] theorem recv_b (n : Nat) (s : State) :
    (recv n s).b = s.b := rfl
@[simp] theorem recv_lane (n : Nat) (s : State) :
    (recv n s).lane = s.lane := rfl
@[simp] theorem recv_cks (n : Nat) (s : State) :
    (recv n s).cks = s.cks := rfl
@[simp] theorem recv_o (n : Nat) (s : State) :
    (recv n s).o = s.o := rfl
@[simp] theorem recv_e (n : Nat) (s : State) :
    (recv n s).e = s.e := rfl
@[simp] theorem recv_wo (n : Nat) (s : State) :
    (recv n s).wo = s.wo := rfl
@[simp] theorem recv_we (n : Nat) (s : State) :
    (recv n s).we = s.we := rfl
@[simp] theorem recv_linkSelected (n : Nat) (s : State) :
    (recv n s).linkSelected = s.linkSelected := rfl
@[simp] theorem recv_led (n : Nat) (s : State) :
    (recv n s).led = s.led := rfl
@[simp] theorem recv_store (n : Nat) (s : State) :
    (recv n s).store = s.store := rfl
@[simp] theorem recv_events (n : Nat) (s : State) :
    (recv n s).events = s.events := rfl
@[simp] theorem recv_linkIn (n : Nat) (s : State) :
    (recv n s).linkIn = s.linkIn.drop n := rfl
@[simp] theorem recv_storeIn (n : Nat) (s : State) :
    (recv n s).storeIn = s.storeIn := rfl
@[simp] theorem recv_draws (n : Nat) (s : State) :
    (recv n s).draws = s.draws + n := rfl
@[simp] theorem recv_trace (n : Nat) (s : State) :
    (recv n s).trace = s.trace ++ (received n s).map fun b => PortEvent.xfer Config.linkIdleTx (some b) := rfl
@[simp] theorem recv_ret (n : Nat) (s : State) :
    (recv n s).ret = s.ret := rfl
@[simp] theorem recv_seekDone (n : Nat) (s : State) :
    (recv n s).seekDone = s.seekDone := rfl

/-! ## drawAnswer -/

@[simp] theorem drawAnswer_df (s : State) :
    (drawAnswer s).df = s.df := rfl
@[simp] theorem drawAnswer_buf (s : State) :
    (drawAnswer s).buf = s.buf := rfl
@[simp] theorem drawAnswer_error (s : State) :
    (drawAnswer s).error = s.error := rfl
@[simp] theorem drawAnswer_ctl (s : State) :
    (drawAnswer s).ctl = s.ctl := rfl
@[simp] theorem drawAnswer_drives (s : State) :
    (drawAnswer s).drives = s.drives := rfl
@[simp] theorem drawAnswer_sel (s : State) :
    (drawAnswer s).sel = s.sel := rfl
@[simp] theorem drawAnswer_sector (s : State) :
    (drawAnswer s).sector = s.sector := rfl
@[simp] theorem drawAnswer_lsStatus (s : State) :
    (drawAnswer s).lsStatus = s.lsStatus := rfl
@[simp] theorem drawAnswer_lsTrack (s : State) :
    (drawAnswer s).lsTrack = s.lsTrack := rfl
@[simp] theorem drawAnswer_lsSync (s : State) :
    (drawAnswer s).lsSync = s.lsSync := rfl
@[simp] theorem drawAnswer_lsLen (s : State) :
    (drawAnswer s).lsLen = s.lsLen := rfl
@[simp] theorem drawAnswer_lsActive (s : State) :
    (drawAnswer s).lsActive = s.lsActive := rfl
@[simp] theorem drawAnswer_lt (s : State) :
    (drawAnswer s).lt = s.lt := rfl
@[simp] theorem drawAnswer_sync (s : State) :
    (drawAnswer s).sync = s.sync := rfl
@[simp] theorem drawAnswer_found (s : State) :
    (drawAnswer s).found = s.found := rfl
@[simp] theorem drawAnswer_off (s : State) :
    (drawAnswer s).off = s.off := rfl
@[simp] theorem drawAnswer_hdrTrack (s : State) :
    (drawAnswer s).hdrTrack = s.hdrTrack := rfl
@[simp] theorem drawAnswer_hdrSector (s : State) :
    (drawAnswer s).hdrSector = s.hdrSector := rfl
@[simp] theorem drawAnswer_b (s : State) :
    (drawAnswer s).b = s.b := rfl
@[simp] theorem drawAnswer_lane (s : State) :
    (drawAnswer s).lane = s.lane := rfl
@[simp] theorem drawAnswer_cks (s : State) :
    (drawAnswer s).cks = s.cks := rfl
@[simp] theorem drawAnswer_o (s : State) :
    (drawAnswer s).o = s.o := rfl
@[simp] theorem drawAnswer_e (s : State) :
    (drawAnswer s).e = s.e := rfl
@[simp] theorem drawAnswer_wo (s : State) :
    (drawAnswer s).wo = s.wo := rfl
@[simp] theorem drawAnswer_we (s : State) :
    (drawAnswer s).we = s.we := rfl
@[simp] theorem drawAnswer_linkSelected (s : State) :
    (drawAnswer s).linkSelected = s.linkSelected := rfl
@[simp] theorem drawAnswer_led (s : State) :
    (drawAnswer s).led = s.led := rfl
@[simp] theorem drawAnswer_store (s : State) :
    (drawAnswer s).store = s.store := rfl
@[simp] theorem drawAnswer_events (s : State) :
    (drawAnswer s).events = s.events := rfl
@[simp] theorem drawAnswer_linkIn (s : State) :
    (drawAnswer s).linkIn = s.linkIn := rfl
@[simp] theorem drawAnswer_storeIn (s : State) :
    (drawAnswer s).storeIn = s.storeIn.tail := rfl
@[simp] theorem drawAnswer_draws (s : State) :
    (drawAnswer s).draws = s.draws + 1 := rfl
@[simp] theorem drawAnswer_trace (s : State) :
    (drawAnswer s).trace = s.trace := rfl
@[simp] theorem drawAnswer_ret (s : State) :
    (drawAnswer s).ret = s.ret := rfl
@[simp] theorem drawAnswer_seekDone (s : State) :
    (drawAnswer s).seekDone = s.seekDone := rfl

/-! ## storeSeek -/

@[simp] theorem storeSeek_df (d : DriveIx) (h : Handle) (off : Nat) (s : State) :
    (storeSeek d h off s).df = s.df := rfl
@[simp] theorem storeSeek_buf (d : DriveIx) (h : Handle) (off : Nat) (s : State) :
    (storeSeek d h off s).buf = s.buf := rfl
@[simp] theorem storeSeek_error (d : DriveIx) (h : Handle) (off : Nat) (s : State) :
    (storeSeek d h off s).error = s.error := rfl
@[simp] theorem storeSeek_ctl (d : DriveIx) (h : Handle) (off : Nat) (s : State) :
    (storeSeek d h off s).ctl = s.ctl := rfl
@[simp] theorem storeSeek_drives (d : DriveIx) (h : Handle) (off : Nat) (s : State) :
    (storeSeek d h off s).drives = s.drives := rfl
@[simp] theorem storeSeek_sel (d : DriveIx) (h : Handle) (off : Nat) (s : State) :
    (storeSeek d h off s).sel = s.sel := rfl
@[simp] theorem storeSeek_sector (d : DriveIx) (h : Handle) (off : Nat) (s : State) :
    (storeSeek d h off s).sector = s.sector := rfl
@[simp] theorem storeSeek_lsStatus (d : DriveIx) (h : Handle) (off : Nat) (s : State) :
    (storeSeek d h off s).lsStatus = s.lsStatus := rfl
@[simp] theorem storeSeek_lsTrack (d : DriveIx) (h : Handle) (off : Nat) (s : State) :
    (storeSeek d h off s).lsTrack = s.lsTrack := rfl
@[simp] theorem storeSeek_lsSync (d : DriveIx) (h : Handle) (off : Nat) (s : State) :
    (storeSeek d h off s).lsSync = s.lsSync := rfl
@[simp] theorem storeSeek_lsLen (d : DriveIx) (h : Handle) (off : Nat) (s : State) :
    (storeSeek d h off s).lsLen = s.lsLen := rfl
@[simp] theorem storeSeek_lsActive (d : DriveIx) (h : Handle) (off : Nat) (s : State) :
    (storeSeek d h off s).lsActive = s.lsActive := rfl
@[simp] theorem storeSeek_lt (d : DriveIx) (h : Handle) (off : Nat) (s : State) :
    (storeSeek d h off s).lt = s.lt := rfl
@[simp] theorem storeSeek_sync (d : DriveIx) (h : Handle) (off : Nat) (s : State) :
    (storeSeek d h off s).sync = s.sync := rfl
@[simp] theorem storeSeek_found (d : DriveIx) (h : Handle) (off : Nat) (s : State) :
    (storeSeek d h off s).found = s.found := rfl
@[simp] theorem storeSeek_off (d : DriveIx) (h : Handle) (off : Nat) (s : State) :
    (storeSeek d h off s).off = s.off := rfl
@[simp] theorem storeSeek_hdrTrack (d : DriveIx) (h : Handle) (off : Nat) (s : State) :
    (storeSeek d h off s).hdrTrack = s.hdrTrack := rfl
@[simp] theorem storeSeek_hdrSector (d : DriveIx) (h : Handle) (off : Nat) (s : State) :
    (storeSeek d h off s).hdrSector = s.hdrSector := rfl
@[simp] theorem storeSeek_b (d : DriveIx) (h : Handle) (off : Nat) (s : State) :
    (storeSeek d h off s).b = s.b := rfl
@[simp] theorem storeSeek_lane (d : DriveIx) (h : Handle) (off : Nat) (s : State) :
    (storeSeek d h off s).lane = s.lane := rfl
@[simp] theorem storeSeek_cks (d : DriveIx) (h : Handle) (off : Nat) (s : State) :
    (storeSeek d h off s).cks = s.cks := rfl
@[simp] theorem storeSeek_o (d : DriveIx) (h : Handle) (off : Nat) (s : State) :
    (storeSeek d h off s).o = s.o := rfl
@[simp] theorem storeSeek_e (d : DriveIx) (h : Handle) (off : Nat) (s : State) :
    (storeSeek d h off s).e = s.e := rfl
@[simp] theorem storeSeek_wo (d : DriveIx) (h : Handle) (off : Nat) (s : State) :
    (storeSeek d h off s).wo = s.wo := rfl
@[simp] theorem storeSeek_we (d : DriveIx) (h : Handle) (off : Nat) (s : State) :
    (storeSeek d h off s).we = s.we := rfl
@[simp] theorem storeSeek_linkSelected (d : DriveIx) (h : Handle) (off : Nat) (s : State) :
    (storeSeek d h off s).linkSelected = s.linkSelected := rfl
@[simp] theorem storeSeek_led (d : DriveIx) (h : Handle) (off : Nat) (s : State) :
    (storeSeek d h off s).led = s.led := rfl
@[simp] theorem storeSeek_events (d : DriveIx) (h : Handle) (off : Nat) (s : State) :
    (storeSeek d h off s).events = s.events := rfl
@[simp] theorem storeSeek_linkIn (d : DriveIx) (h : Handle) (off : Nat) (s : State) :
    (storeSeek d h off s).linkIn = s.linkIn := rfl
@[simp] theorem storeSeek_storeIn (d : DriveIx) (h : Handle) (off : Nat) (s : State) :
    (storeSeek d h off s).storeIn = s.storeIn.tail := rfl
@[simp] theorem storeSeek_draws (d : DriveIx) (h : Handle) (off : Nat) (s : State) :
    (storeSeek d h off s).draws = s.draws + 1 := rfl
@[simp] theorem storeSeek_trace (d : DriveIx) (h : Handle) (off : Nat) (s : State) :
    (storeSeek d h off s).trace = s.trace ++ [.storeSeek d off (seekOk h off s)] := rfl
@[simp] theorem storeSeek_ret (d : DriveIx) (h : Handle) (off : Nat) (s : State) :
    (storeSeek d h off s).ret = s.ret := rfl
@[simp] theorem storeSeek_seekDone (d : DriveIx) (h : Handle) (off : Nat) (s : State) :
    (storeSeek d h off s).seekDone = s.seekDone := rfl

/-! ## storeRead -/

@[simp] theorem storeRead_df (d : DriveIx) (h : Handle) (s : State) :
    (storeRead d h s).df = s.df := rfl
@[simp] theorem storeRead_buf (d : DriveIx) (h : Handle) (s : State) :
    (storeRead d h s).buf = s.buf := rfl
@[simp] theorem storeRead_error (d : DriveIx) (h : Handle) (s : State) :
    (storeRead d h s).error = s.error := rfl
@[simp] theorem storeRead_ctl (d : DriveIx) (h : Handle) (s : State) :
    (storeRead d h s).ctl = s.ctl := rfl
@[simp] theorem storeRead_drives (d : DriveIx) (h : Handle) (s : State) :
    (storeRead d h s).drives = s.drives := rfl
@[simp] theorem storeRead_sel (d : DriveIx) (h : Handle) (s : State) :
    (storeRead d h s).sel = s.sel := rfl
@[simp] theorem storeRead_sector (d : DriveIx) (h : Handle) (s : State) :
    (storeRead d h s).sector = s.sector := rfl
@[simp] theorem storeRead_lsStatus (d : DriveIx) (h : Handle) (s : State) :
    (storeRead d h s).lsStatus = s.lsStatus := rfl
@[simp] theorem storeRead_lsTrack (d : DriveIx) (h : Handle) (s : State) :
    (storeRead d h s).lsTrack = s.lsTrack := rfl
@[simp] theorem storeRead_lsSync (d : DriveIx) (h : Handle) (s : State) :
    (storeRead d h s).lsSync = s.lsSync := rfl
@[simp] theorem storeRead_lsLen (d : DriveIx) (h : Handle) (s : State) :
    (storeRead d h s).lsLen = s.lsLen := rfl
@[simp] theorem storeRead_lsActive (d : DriveIx) (h : Handle) (s : State) :
    (storeRead d h s).lsActive = s.lsActive := rfl
@[simp] theorem storeRead_lt (d : DriveIx) (h : Handle) (s : State) :
    (storeRead d h s).lt = s.lt := rfl
@[simp] theorem storeRead_sync (d : DriveIx) (h : Handle) (s : State) :
    (storeRead d h s).sync = s.sync := rfl
@[simp] theorem storeRead_found (d : DriveIx) (h : Handle) (s : State) :
    (storeRead d h s).found = s.found := rfl
@[simp] theorem storeRead_off (d : DriveIx) (h : Handle) (s : State) :
    (storeRead d h s).off = s.off := rfl
@[simp] theorem storeRead_hdrTrack (d : DriveIx) (h : Handle) (s : State) :
    (storeRead d h s).hdrTrack = s.hdrTrack := rfl
@[simp] theorem storeRead_hdrSector (d : DriveIx) (h : Handle) (s : State) :
    (storeRead d h s).hdrSector = s.hdrSector := rfl
@[simp] theorem storeRead_b (d : DriveIx) (h : Handle) (s : State) :
    (storeRead d h s).b = s.b := rfl
@[simp] theorem storeRead_lane (d : DriveIx) (h : Handle) (s : State) :
    (storeRead d h s).lane = s.lane := rfl
@[simp] theorem storeRead_cks (d : DriveIx) (h : Handle) (s : State) :
    (storeRead d h s).cks = s.cks := rfl
@[simp] theorem storeRead_o (d : DriveIx) (h : Handle) (s : State) :
    (storeRead d h s).o = s.o := rfl
@[simp] theorem storeRead_e (d : DriveIx) (h : Handle) (s : State) :
    (storeRead d h s).e = s.e := rfl
@[simp] theorem storeRead_wo (d : DriveIx) (h : Handle) (s : State) :
    (storeRead d h s).wo = s.wo := rfl
@[simp] theorem storeRead_we (d : DriveIx) (h : Handle) (s : State) :
    (storeRead d h s).we = s.we := rfl
@[simp] theorem storeRead_linkSelected (d : DriveIx) (h : Handle) (s : State) :
    (storeRead d h s).linkSelected = s.linkSelected := rfl
@[simp] theorem storeRead_led (d : DriveIx) (h : Handle) (s : State) :
    (storeRead d h s).led = s.led := rfl
@[simp] theorem storeRead_events (d : DriveIx) (h : Handle) (s : State) :
    (storeRead d h s).events = s.events := rfl
@[simp] theorem storeRead_linkIn (d : DriveIx) (h : Handle) (s : State) :
    (storeRead d h s).linkIn = s.linkIn := rfl
@[simp] theorem storeRead_storeIn (d : DriveIx) (h : Handle) (s : State) :
    (storeRead d h s).storeIn = s.storeIn.tail := rfl
@[simp] theorem storeRead_draws (d : DriveIx) (h : Handle) (s : State) :
    (storeRead d h s).draws = s.draws + 1 := rfl
@[simp] theorem storeRead_trace (d : DriveIx) (h : Handle) (s : State) :
    (storeRead d h s).trace = s.trace ++ [.storeRead d (fileAt s.store h).cursor (accessOk h s)] := rfl
@[simp] theorem storeRead_ret (d : DriveIx) (h : Handle) (s : State) :
    (storeRead d h s).ret = s.ret := rfl
@[simp] theorem storeRead_seekDone (d : DriveIx) (h : Handle) (s : State) :
    (storeRead d h s).seekDone = s.seekDone := rfl

/-! ## storeWrite -/

@[simp] theorem storeWrite_df (d : DriveIx) (h : Handle) (blk : Block) (s : State) :
    (storeWrite d h blk s).df = s.df := rfl
@[simp] theorem storeWrite_buf (d : DriveIx) (h : Handle) (blk : Block) (s : State) :
    (storeWrite d h blk s).buf = s.buf := rfl
@[simp] theorem storeWrite_error (d : DriveIx) (h : Handle) (blk : Block) (s : State) :
    (storeWrite d h blk s).error = s.error := rfl
@[simp] theorem storeWrite_ctl (d : DriveIx) (h : Handle) (blk : Block) (s : State) :
    (storeWrite d h blk s).ctl = s.ctl := rfl
@[simp] theorem storeWrite_drives (d : DriveIx) (h : Handle) (blk : Block) (s : State) :
    (storeWrite d h blk s).drives = s.drives := rfl
@[simp] theorem storeWrite_sel (d : DriveIx) (h : Handle) (blk : Block) (s : State) :
    (storeWrite d h blk s).sel = s.sel := rfl
@[simp] theorem storeWrite_sector (d : DriveIx) (h : Handle) (blk : Block) (s : State) :
    (storeWrite d h blk s).sector = s.sector := rfl
@[simp] theorem storeWrite_lsStatus (d : DriveIx) (h : Handle) (blk : Block) (s : State) :
    (storeWrite d h blk s).lsStatus = s.lsStatus := rfl
@[simp] theorem storeWrite_lsTrack (d : DriveIx) (h : Handle) (blk : Block) (s : State) :
    (storeWrite d h blk s).lsTrack = s.lsTrack := rfl
@[simp] theorem storeWrite_lsSync (d : DriveIx) (h : Handle) (blk : Block) (s : State) :
    (storeWrite d h blk s).lsSync = s.lsSync := rfl
@[simp] theorem storeWrite_lsLen (d : DriveIx) (h : Handle) (blk : Block) (s : State) :
    (storeWrite d h blk s).lsLen = s.lsLen := rfl
@[simp] theorem storeWrite_lsActive (d : DriveIx) (h : Handle) (blk : Block) (s : State) :
    (storeWrite d h blk s).lsActive = s.lsActive := rfl
@[simp] theorem storeWrite_lt (d : DriveIx) (h : Handle) (blk : Block) (s : State) :
    (storeWrite d h blk s).lt = s.lt := rfl
@[simp] theorem storeWrite_sync (d : DriveIx) (h : Handle) (blk : Block) (s : State) :
    (storeWrite d h blk s).sync = s.sync := rfl
@[simp] theorem storeWrite_found (d : DriveIx) (h : Handle) (blk : Block) (s : State) :
    (storeWrite d h blk s).found = s.found := rfl
@[simp] theorem storeWrite_off (d : DriveIx) (h : Handle) (blk : Block) (s : State) :
    (storeWrite d h blk s).off = s.off := rfl
@[simp] theorem storeWrite_hdrTrack (d : DriveIx) (h : Handle) (blk : Block) (s : State) :
    (storeWrite d h blk s).hdrTrack = s.hdrTrack := rfl
@[simp] theorem storeWrite_hdrSector (d : DriveIx) (h : Handle) (blk : Block) (s : State) :
    (storeWrite d h blk s).hdrSector = s.hdrSector := rfl
@[simp] theorem storeWrite_b (d : DriveIx) (h : Handle) (blk : Block) (s : State) :
    (storeWrite d h blk s).b = s.b := rfl
@[simp] theorem storeWrite_lane (d : DriveIx) (h : Handle) (blk : Block) (s : State) :
    (storeWrite d h blk s).lane = s.lane := rfl
@[simp] theorem storeWrite_cks (d : DriveIx) (h : Handle) (blk : Block) (s : State) :
    (storeWrite d h blk s).cks = s.cks := rfl
@[simp] theorem storeWrite_o (d : DriveIx) (h : Handle) (blk : Block) (s : State) :
    (storeWrite d h blk s).o = s.o := rfl
@[simp] theorem storeWrite_e (d : DriveIx) (h : Handle) (blk : Block) (s : State) :
    (storeWrite d h blk s).e = s.e := rfl
@[simp] theorem storeWrite_wo (d : DriveIx) (h : Handle) (blk : Block) (s : State) :
    (storeWrite d h blk s).wo = s.wo := rfl
@[simp] theorem storeWrite_we (d : DriveIx) (h : Handle) (blk : Block) (s : State) :
    (storeWrite d h blk s).we = s.we := rfl
@[simp] theorem storeWrite_linkSelected (d : DriveIx) (h : Handle) (blk : Block) (s : State) :
    (storeWrite d h blk s).linkSelected = s.linkSelected := rfl
@[simp] theorem storeWrite_led (d : DriveIx) (h : Handle) (blk : Block) (s : State) :
    (storeWrite d h blk s).led = s.led := rfl
@[simp] theorem storeWrite_events (d : DriveIx) (h : Handle) (blk : Block) (s : State) :
    (storeWrite d h blk s).events = s.events := rfl
@[simp] theorem storeWrite_linkIn (d : DriveIx) (h : Handle) (blk : Block) (s : State) :
    (storeWrite d h blk s).linkIn = s.linkIn := rfl
@[simp] theorem storeWrite_storeIn (d : DriveIx) (h : Handle) (blk : Block) (s : State) :
    (storeWrite d h blk s).storeIn = s.storeIn.tail := rfl
@[simp] theorem storeWrite_draws (d : DriveIx) (h : Handle) (blk : Block) (s : State) :
    (storeWrite d h blk s).draws = s.draws + 1 := rfl
@[simp] theorem storeWrite_trace (d : DriveIx) (h : Handle) (blk : Block) (s : State) :
    (storeWrite d h blk s).trace = s.trace ++ [.storeWrite d (fileAt s.store h).cursor (accessOk h s)] := rfl
@[simp] theorem storeWrite_ret (d : DriveIx) (h : Handle) (blk : Block) (s : State) :
    (storeWrite d h blk s).ret = s.ret := rfl
@[simp] theorem storeWrite_seekDone (d : DriveIx) (h : Handle) (blk : Block) (s : State) :
    (storeWrite d h blk s).seekDone = s.seekDone := rfl

/-! ## storeTell -/

@[simp] theorem storeTell_df (d : DriveIx) (h : Handle) (s : State) :
    (storeTell d h s).df = s.df := rfl
@[simp] theorem storeTell_buf (d : DriveIx) (h : Handle) (s : State) :
    (storeTell d h s).buf = s.buf := rfl
@[simp] theorem storeTell_error (d : DriveIx) (h : Handle) (s : State) :
    (storeTell d h s).error = s.error := rfl
@[simp] theorem storeTell_ctl (d : DriveIx) (h : Handle) (s : State) :
    (storeTell d h s).ctl = s.ctl := rfl
@[simp] theorem storeTell_drives (d : DriveIx) (h : Handle) (s : State) :
    (storeTell d h s).drives = s.drives := rfl
@[simp] theorem storeTell_sel (d : DriveIx) (h : Handle) (s : State) :
    (storeTell d h s).sel = s.sel := rfl
@[simp] theorem storeTell_sector (d : DriveIx) (h : Handle) (s : State) :
    (storeTell d h s).sector = s.sector := rfl
@[simp] theorem storeTell_lsStatus (d : DriveIx) (h : Handle) (s : State) :
    (storeTell d h s).lsStatus = s.lsStatus := rfl
@[simp] theorem storeTell_lsTrack (d : DriveIx) (h : Handle) (s : State) :
    (storeTell d h s).lsTrack = s.lsTrack := rfl
@[simp] theorem storeTell_lsSync (d : DriveIx) (h : Handle) (s : State) :
    (storeTell d h s).lsSync = s.lsSync := rfl
@[simp] theorem storeTell_lsLen (d : DriveIx) (h : Handle) (s : State) :
    (storeTell d h s).lsLen = s.lsLen := rfl
@[simp] theorem storeTell_lsActive (d : DriveIx) (h : Handle) (s : State) :
    (storeTell d h s).lsActive = s.lsActive := rfl
@[simp] theorem storeTell_lt (d : DriveIx) (h : Handle) (s : State) :
    (storeTell d h s).lt = s.lt := rfl
@[simp] theorem storeTell_sync (d : DriveIx) (h : Handle) (s : State) :
    (storeTell d h s).sync = s.sync := rfl
@[simp] theorem storeTell_found (d : DriveIx) (h : Handle) (s : State) :
    (storeTell d h s).found = s.found := rfl
@[simp] theorem storeTell_off (d : DriveIx) (h : Handle) (s : State) :
    (storeTell d h s).off = s.off := rfl
@[simp] theorem storeTell_hdrTrack (d : DriveIx) (h : Handle) (s : State) :
    (storeTell d h s).hdrTrack = s.hdrTrack := rfl
@[simp] theorem storeTell_hdrSector (d : DriveIx) (h : Handle) (s : State) :
    (storeTell d h s).hdrSector = s.hdrSector := rfl
@[simp] theorem storeTell_b (d : DriveIx) (h : Handle) (s : State) :
    (storeTell d h s).b = s.b := rfl
@[simp] theorem storeTell_lane (d : DriveIx) (h : Handle) (s : State) :
    (storeTell d h s).lane = s.lane := rfl
@[simp] theorem storeTell_cks (d : DriveIx) (h : Handle) (s : State) :
    (storeTell d h s).cks = s.cks := rfl
@[simp] theorem storeTell_o (d : DriveIx) (h : Handle) (s : State) :
    (storeTell d h s).o = s.o := rfl
@[simp] theorem storeTell_e (d : DriveIx) (h : Handle) (s : State) :
    (storeTell d h s).e = s.e := rfl
@[simp] theorem storeTell_wo (d : DriveIx) (h : Handle) (s : State) :
    (storeTell d h s).wo = s.wo := rfl
@[simp] theorem storeTell_we (d : DriveIx) (h : Handle) (s : State) :
    (storeTell d h s).we = s.we := rfl
@[simp] theorem storeTell_linkSelected (d : DriveIx) (h : Handle) (s : State) :
    (storeTell d h s).linkSelected = s.linkSelected := rfl
@[simp] theorem storeTell_led (d : DriveIx) (h : Handle) (s : State) :
    (storeTell d h s).led = s.led := rfl
@[simp] theorem storeTell_events (d : DriveIx) (h : Handle) (s : State) :
    (storeTell d h s).events = s.events := rfl
@[simp] theorem storeTell_linkIn (d : DriveIx) (h : Handle) (s : State) :
    (storeTell d h s).linkIn = s.linkIn := rfl
@[simp] theorem storeTell_storeIn (d : DriveIx) (h : Handle) (s : State) :
    (storeTell d h s).storeIn = s.storeIn.tail := rfl
@[simp] theorem storeTell_draws (d : DriveIx) (h : Handle) (s : State) :
    (storeTell d h s).draws = s.draws + 1 := rfl
@[simp] theorem storeTell_trace (d : DriveIx) (h : Handle) (s : State) :
    (storeTell d h s).trace = s.trace ++ [.storeTell d (tellPos h s)] := rfl
@[simp] theorem storeTell_ret (d : DriveIx) (h : Handle) (s : State) :
    (storeTell d h s).ret = s.ret := rfl
@[simp] theorem storeTell_seekDone (d : DriveIx) (h : Handle) (s : State) :
    (storeTell d h s).seekDone = s.seekDone := rfl

/-! ## storeFlush -/

@[simp] theorem storeFlush_df (d : DriveIx) (h : Handle) (s : State) :
    (storeFlush d h s).df = s.df := rfl
@[simp] theorem storeFlush_buf (d : DriveIx) (h : Handle) (s : State) :
    (storeFlush d h s).buf = s.buf := rfl
@[simp] theorem storeFlush_error (d : DriveIx) (h : Handle) (s : State) :
    (storeFlush d h s).error = s.error := rfl
@[simp] theorem storeFlush_ctl (d : DriveIx) (h : Handle) (s : State) :
    (storeFlush d h s).ctl = s.ctl := rfl
@[simp] theorem storeFlush_drives (d : DriveIx) (h : Handle) (s : State) :
    (storeFlush d h s).drives = s.drives := rfl
@[simp] theorem storeFlush_sel (d : DriveIx) (h : Handle) (s : State) :
    (storeFlush d h s).sel = s.sel := rfl
@[simp] theorem storeFlush_sector (d : DriveIx) (h : Handle) (s : State) :
    (storeFlush d h s).sector = s.sector := rfl
@[simp] theorem storeFlush_lsStatus (d : DriveIx) (h : Handle) (s : State) :
    (storeFlush d h s).lsStatus = s.lsStatus := rfl
@[simp] theorem storeFlush_lsTrack (d : DriveIx) (h : Handle) (s : State) :
    (storeFlush d h s).lsTrack = s.lsTrack := rfl
@[simp] theorem storeFlush_lsSync (d : DriveIx) (h : Handle) (s : State) :
    (storeFlush d h s).lsSync = s.lsSync := rfl
@[simp] theorem storeFlush_lsLen (d : DriveIx) (h : Handle) (s : State) :
    (storeFlush d h s).lsLen = s.lsLen := rfl
@[simp] theorem storeFlush_lsActive (d : DriveIx) (h : Handle) (s : State) :
    (storeFlush d h s).lsActive = s.lsActive := rfl
@[simp] theorem storeFlush_lt (d : DriveIx) (h : Handle) (s : State) :
    (storeFlush d h s).lt = s.lt := rfl
@[simp] theorem storeFlush_sync (d : DriveIx) (h : Handle) (s : State) :
    (storeFlush d h s).sync = s.sync := rfl
@[simp] theorem storeFlush_found (d : DriveIx) (h : Handle) (s : State) :
    (storeFlush d h s).found = s.found := rfl
@[simp] theorem storeFlush_off (d : DriveIx) (h : Handle) (s : State) :
    (storeFlush d h s).off = s.off := rfl
@[simp] theorem storeFlush_hdrTrack (d : DriveIx) (h : Handle) (s : State) :
    (storeFlush d h s).hdrTrack = s.hdrTrack := rfl
@[simp] theorem storeFlush_hdrSector (d : DriveIx) (h : Handle) (s : State) :
    (storeFlush d h s).hdrSector = s.hdrSector := rfl
@[simp] theorem storeFlush_b (d : DriveIx) (h : Handle) (s : State) :
    (storeFlush d h s).b = s.b := rfl
@[simp] theorem storeFlush_lane (d : DriveIx) (h : Handle) (s : State) :
    (storeFlush d h s).lane = s.lane := rfl
@[simp] theorem storeFlush_cks (d : DriveIx) (h : Handle) (s : State) :
    (storeFlush d h s).cks = s.cks := rfl
@[simp] theorem storeFlush_o (d : DriveIx) (h : Handle) (s : State) :
    (storeFlush d h s).o = s.o := rfl
@[simp] theorem storeFlush_e (d : DriveIx) (h : Handle) (s : State) :
    (storeFlush d h s).e = s.e := rfl
@[simp] theorem storeFlush_wo (d : DriveIx) (h : Handle) (s : State) :
    (storeFlush d h s).wo = s.wo := rfl
@[simp] theorem storeFlush_we (d : DriveIx) (h : Handle) (s : State) :
    (storeFlush d h s).we = s.we := rfl
@[simp] theorem storeFlush_linkSelected (d : DriveIx) (h : Handle) (s : State) :
    (storeFlush d h s).linkSelected = s.linkSelected := rfl
@[simp] theorem storeFlush_led (d : DriveIx) (h : Handle) (s : State) :
    (storeFlush d h s).led = s.led := rfl
@[simp] theorem storeFlush_events (d : DriveIx) (h : Handle) (s : State) :
    (storeFlush d h s).events = s.events := rfl
@[simp] theorem storeFlush_linkIn (d : DriveIx) (h : Handle) (s : State) :
    (storeFlush d h s).linkIn = s.linkIn := rfl
@[simp] theorem storeFlush_storeIn (d : DriveIx) (h : Handle) (s : State) :
    (storeFlush d h s).storeIn = s.storeIn.tail := rfl
@[simp] theorem storeFlush_draws (d : DriveIx) (h : Handle) (s : State) :
    (storeFlush d h s).draws = s.draws + 1 := rfl
@[simp] theorem storeFlush_trace (d : DriveIx) (h : Handle) (s : State) :
    (storeFlush d h s).trace = s.trace ++ [.storeFlush d (nextAnswer s).ok] := rfl
@[simp] theorem storeFlush_ret (d : DriveIx) (h : Handle) (s : State) :
    (storeFlush d h s).ret = s.ret := rfl
@[simp] theorem storeFlush_seekDone (d : DriveIx) (h : Handle) (s : State) :
    (storeFlush d h s).seekDone = s.seekDone := rfl

/-! ## raiseErr -/

@[simp] theorem raiseErr_df (c : Byte) (s : State) :
    (raiseErr c s).df = s.df := rfl
@[simp] theorem raiseErr_buf (c : Byte) (s : State) :
    (raiseErr c s).buf = s.buf := rfl
@[simp] theorem raiseErr_error (c : Byte) (s : State) :
    (raiseErr c s).error = c := rfl
@[simp] theorem raiseErr_ctl (c : Byte) (s : State) :
    (raiseErr c s).ctl = s.ctl := rfl
@[simp] theorem raiseErr_drives (c : Byte) (s : State) :
    (raiseErr c s).drives = s.drives := rfl
@[simp] theorem raiseErr_sel (c : Byte) (s : State) :
    (raiseErr c s).sel = s.sel := rfl
@[simp] theorem raiseErr_sector (c : Byte) (s : State) :
    (raiseErr c s).sector = s.sector := rfl
@[simp] theorem raiseErr_lsStatus (c : Byte) (s : State) :
    (raiseErr c s).lsStatus = s.lsStatus := rfl
@[simp] theorem raiseErr_lsTrack (c : Byte) (s : State) :
    (raiseErr c s).lsTrack = s.lsTrack := rfl
@[simp] theorem raiseErr_lsSync (c : Byte) (s : State) :
    (raiseErr c s).lsSync = s.lsSync := rfl
@[simp] theorem raiseErr_lsLen (c : Byte) (s : State) :
    (raiseErr c s).lsLen = s.lsLen := rfl
@[simp] theorem raiseErr_lsActive (c : Byte) (s : State) :
    (raiseErr c s).lsActive = s.lsActive := rfl
@[simp] theorem raiseErr_lt (c : Byte) (s : State) :
    (raiseErr c s).lt = s.lt := rfl
@[simp] theorem raiseErr_sync (c : Byte) (s : State) :
    (raiseErr c s).sync = s.sync := rfl
@[simp] theorem raiseErr_found (c : Byte) (s : State) :
    (raiseErr c s).found = s.found := rfl
@[simp] theorem raiseErr_off (c : Byte) (s : State) :
    (raiseErr c s).off = s.off := rfl
@[simp] theorem raiseErr_hdrTrack (c : Byte) (s : State) :
    (raiseErr c s).hdrTrack = s.hdrTrack := rfl
@[simp] theorem raiseErr_hdrSector (c : Byte) (s : State) :
    (raiseErr c s).hdrSector = s.hdrSector := rfl
@[simp] theorem raiseErr_b (c : Byte) (s : State) :
    (raiseErr c s).b = s.b := rfl
@[simp] theorem raiseErr_lane (c : Byte) (s : State) :
    (raiseErr c s).lane = s.lane := rfl
@[simp] theorem raiseErr_cks (c : Byte) (s : State) :
    (raiseErr c s).cks = s.cks := rfl
@[simp] theorem raiseErr_o (c : Byte) (s : State) :
    (raiseErr c s).o = s.o := rfl
@[simp] theorem raiseErr_e (c : Byte) (s : State) :
    (raiseErr c s).e = s.e := rfl
@[simp] theorem raiseErr_wo (c : Byte) (s : State) :
    (raiseErr c s).wo = s.wo := rfl
@[simp] theorem raiseErr_we (c : Byte) (s : State) :
    (raiseErr c s).we = s.we := rfl
@[simp] theorem raiseErr_linkSelected (c : Byte) (s : State) :
    (raiseErr c s).linkSelected = s.linkSelected := rfl
@[simp] theorem raiseErr_led (c : Byte) (s : State) :
    (raiseErr c s).led = s.led := rfl
@[simp] theorem raiseErr_store (c : Byte) (s : State) :
    (raiseErr c s).store = s.store := rfl
@[simp] theorem raiseErr_events (c : Byte) (s : State) :
    (raiseErr c s).events = s.events := rfl
@[simp] theorem raiseErr_linkIn (c : Byte) (s : State) :
    (raiseErr c s).linkIn = s.linkIn := rfl
@[simp] theorem raiseErr_storeIn (c : Byte) (s : State) :
    (raiseErr c s).storeIn = s.storeIn := rfl
@[simp] theorem raiseErr_draws (c : Byte) (s : State) :
    (raiseErr c s).draws = s.draws := rfl
@[simp] theorem raiseErr_trace (c : Byte) (s : State) :
    (raiseErr c s).trace = s.trace := rfl
@[simp] theorem raiseErr_ret (c : Byte) (s : State) :
    (raiseErr c s).ret = some false := rfl
@[simp] theorem raiseErr_seekDone (c : Byte) (s : State) :
    (raiseErr c s).seekDone = s.seekDone := rfl

/-! ## returnFromErr -/

@[simp] theorem returnFromErr_df (s : State) :
    (returnFromErr s).df = s.df := rfl
@[simp] theorem returnFromErr_buf (s : State) :
    (returnFromErr s).buf = s.buf := rfl
@[simp] theorem returnFromErr_error (s : State) :
    (returnFromErr s).error = 0 := rfl
@[simp] theorem returnFromErr_ctl (s : State) :
    (returnFromErr s).ctl = .seekSync := rfl
@[simp] theorem returnFromErr_drives (s : State) :
    (returnFromErr s).drives = s.drives := rfl
@[simp] theorem returnFromErr_sel (s : State) :
    (returnFromErr s).sel = s.sel := rfl
@[simp] theorem returnFromErr_sector (s : State) :
    (returnFromErr s).sector = s.sector := rfl
@[simp] theorem returnFromErr_lsStatus (s : State) :
    (returnFromErr s).lsStatus = s.lsStatus := rfl
@[simp] theorem returnFromErr_lsTrack (s : State) :
    (returnFromErr s).lsTrack = s.lsTrack := rfl
@[simp] theorem returnFromErr_lsSync (s : State) :
    (returnFromErr s).lsSync = s.lsSync := rfl
@[simp] theorem returnFromErr_lsLen (s : State) :
    (returnFromErr s).lsLen = s.lsLen := rfl
@[simp] theorem returnFromErr_lsActive (s : State) :
    (returnFromErr s).lsActive = s.lsActive := rfl
@[simp] theorem returnFromErr_lt (s : State) :
    (returnFromErr s).lt = s.lt := rfl
@[simp] theorem returnFromErr_sync (s : State) :
    (returnFromErr s).sync = s.sync := rfl
@[simp] theorem returnFromErr_found (s : State) :
    (returnFromErr s).found = s.found := rfl
@[simp] theorem returnFromErr_off (s : State) :
    (returnFromErr s).off = s.off := rfl
@[simp] theorem returnFromErr_hdrTrack (s : State) :
    (returnFromErr s).hdrTrack = s.hdrTrack := rfl
@[simp] theorem returnFromErr_hdrSector (s : State) :
    (returnFromErr s).hdrSector = s.hdrSector := rfl
@[simp] theorem returnFromErr_b (s : State) :
    (returnFromErr s).b = s.b := rfl
@[simp] theorem returnFromErr_lane (s : State) :
    (returnFromErr s).lane = s.lane := rfl
@[simp] theorem returnFromErr_cks (s : State) :
    (returnFromErr s).cks = s.cks := rfl
@[simp] theorem returnFromErr_o (s : State) :
    (returnFromErr s).o = s.o := rfl
@[simp] theorem returnFromErr_e (s : State) :
    (returnFromErr s).e = s.e := rfl
@[simp] theorem returnFromErr_wo (s : State) :
    (returnFromErr s).wo = s.wo := rfl
@[simp] theorem returnFromErr_we (s : State) :
    (returnFromErr s).we = s.we := rfl
@[simp] theorem returnFromErr_linkSelected (s : State) :
    (returnFromErr s).linkSelected = s.linkSelected := rfl
@[simp] theorem returnFromErr_led (s : State) :
    (returnFromErr s).led = s.led := rfl
@[simp] theorem returnFromErr_store (s : State) :
    (returnFromErr s).store = s.store := rfl
@[simp] theorem returnFromErr_events (s : State) :
    (returnFromErr s).events = s.events := rfl
@[simp] theorem returnFromErr_linkIn (s : State) :
    (returnFromErr s).linkIn = s.linkIn := rfl
@[simp] theorem returnFromErr_storeIn (s : State) :
    (returnFromErr s).storeIn = s.storeIn := rfl
@[simp] theorem returnFromErr_draws (s : State) :
    (returnFromErr s).draws = s.draws := rfl
@[simp] theorem returnFromErr_ret (s : State) :
    (returnFromErr s).ret = s.ret := rfl
@[simp] theorem returnFromErr_seekDone (s : State) :
    (returnFromErr s).seekDone = s.seekDone := rfl

/-! ## ledOn -/

@[simp] theorem ledOn_df (s : State) :
    (ledOn s).df = s.df := rfl
@[simp] theorem ledOn_buf (s : State) :
    (ledOn s).buf = s.buf := rfl
@[simp] theorem ledOn_error (s : State) :
    (ledOn s).error = s.error := rfl
@[simp] theorem ledOn_ctl (s : State) :
    (ledOn s).ctl = s.ctl := rfl
@[simp] theorem ledOn_drives (s : State) :
    (ledOn s).drives = s.drives := rfl
@[simp] theorem ledOn_sel (s : State) :
    (ledOn s).sel = s.sel := rfl
@[simp] theorem ledOn_sector (s : State) :
    (ledOn s).sector = s.sector := rfl
@[simp] theorem ledOn_lsStatus (s : State) :
    (ledOn s).lsStatus = s.lsStatus := rfl
@[simp] theorem ledOn_lsTrack (s : State) :
    (ledOn s).lsTrack = s.lsTrack := rfl
@[simp] theorem ledOn_lsSync (s : State) :
    (ledOn s).lsSync = s.lsSync := rfl
@[simp] theorem ledOn_lsLen (s : State) :
    (ledOn s).lsLen = s.lsLen := rfl
@[simp] theorem ledOn_lsActive (s : State) :
    (ledOn s).lsActive = s.lsActive := rfl
@[simp] theorem ledOn_lt (s : State) :
    (ledOn s).lt = s.lt := rfl
@[simp] theorem ledOn_sync (s : State) :
    (ledOn s).sync = s.sync := rfl
@[simp] theorem ledOn_found (s : State) :
    (ledOn s).found = s.found := rfl
@[simp] theorem ledOn_off (s : State) :
    (ledOn s).off = s.off := rfl
@[simp] theorem ledOn_hdrTrack (s : State) :
    (ledOn s).hdrTrack = s.hdrTrack := rfl
@[simp] theorem ledOn_hdrSector (s : State) :
    (ledOn s).hdrSector = s.hdrSector := rfl
@[simp] theorem ledOn_b (s : State) :
    (ledOn s).b = s.b := rfl
@[simp] theorem ledOn_lane (s : State) :
    (ledOn s).lane = s.lane := rfl
@[simp] theorem ledOn_cks (s : State) :
    (ledOn s).cks = s.cks := rfl
@[simp] theorem ledOn_o (s : State) :
    (ledOn s).o = s.o := rfl
@[simp] theorem ledOn_e (s : State) :
    (ledOn s).e = s.e := rfl
@[simp] theorem ledOn_wo (s : State) :
    (ledOn s).wo = s.wo := rfl
@[simp] theorem ledOn_we (s : State) :
    (ledOn s).we = s.we := rfl
@[simp] theorem ledOn_linkSelected (s : State) :
    (ledOn s).linkSelected = s.linkSelected := rfl
@[simp] theorem ledOn_led (s : State) :
    (ledOn s).led = true := rfl
@[simp] theorem ledOn_store (s : State) :
    (ledOn s).store = s.store := rfl
@[simp] theorem ledOn_events (s : State) :
    (ledOn s).events = s.events := rfl
@[simp] theorem ledOn_linkIn (s : State) :
    (ledOn s).linkIn = s.linkIn := rfl
@[simp] theorem ledOn_storeIn (s : State) :
    (ledOn s).storeIn = s.storeIn := rfl
@[simp] theorem ledOn_draws (s : State) :
    (ledOn s).draws = s.draws := rfl
@[simp] theorem ledOn_trace (s : State) :
    (ledOn s).trace = s.trace ++ [.ledOn] := rfl
@[simp] theorem ledOn_ret (s : State) :
    (ledOn s).ret = s.ret := rfl
@[simp] theorem ledOn_seekDone (s : State) :
    (ledOn s).seekDone = s.seekDone := rfl

/-! ## ledOff -/

@[simp] theorem ledOff_df (s : State) :
    (ledOff s).df = s.df := rfl
@[simp] theorem ledOff_buf (s : State) :
    (ledOff s).buf = s.buf := rfl
@[simp] theorem ledOff_error (s : State) :
    (ledOff s).error = s.error := rfl
@[simp] theorem ledOff_ctl (s : State) :
    (ledOff s).ctl = s.ctl := rfl
@[simp] theorem ledOff_drives (s : State) :
    (ledOff s).drives = s.drives := rfl
@[simp] theorem ledOff_sel (s : State) :
    (ledOff s).sel = s.sel := rfl
@[simp] theorem ledOff_sector (s : State) :
    (ledOff s).sector = s.sector := rfl
@[simp] theorem ledOff_lsStatus (s : State) :
    (ledOff s).lsStatus = s.lsStatus := rfl
@[simp] theorem ledOff_lsTrack (s : State) :
    (ledOff s).lsTrack = s.lsTrack := rfl
@[simp] theorem ledOff_lsSync (s : State) :
    (ledOff s).lsSync = s.lsSync := rfl
@[simp] theorem ledOff_lsLen (s : State) :
    (ledOff s).lsLen = s.lsLen := rfl
@[simp] theorem ledOff_lsActive (s : State) :
    (ledOff s).lsActive = s.lsActive := rfl
@[simp] theorem ledOff_lt (s : State) :
    (ledOff s).lt = s.lt := rfl
@[simp] theorem ledOff_sync (s : State) :
    (ledOff s).sync = s.sync := rfl
@[simp] theorem ledOff_found (s : State) :
    (ledOff s).found = s.found := rfl
@[simp] theorem ledOff_off (s : State) :
    (ledOff s).off = s.off := rfl
@[simp] theorem ledOff_hdrTrack (s : State) :
    (ledOff s).hdrTrack = s.hdrTrack := rfl
@[simp] theorem ledOff_hdrSector (s : State) :
    (ledOff s).hdrSector = s.hdrSector := rfl
@[simp] theorem ledOff_b (s : State) :
    (ledOff s).b = s.b := rfl
@[simp] theorem ledOff_lane (s : State) :
    (ledOff s).lane = s.lane := rfl
@[simp] theorem ledOff_cks (s : State) :
    (ledOff s).cks = s.cks := rfl
@[simp] theorem ledOff_o (s : State) :
    (ledOff s).o = s.o := rfl
@[simp] theorem ledOff_e (s : State) :
    (ledOff s).e = s.e := rfl
@[simp] theorem ledOff_wo (s : State) :
    (ledOff s).wo = s.wo := rfl
@[simp] theorem ledOff_we (s : State) :
    (ledOff s).we = s.we := rfl
@[simp] theorem ledOff_linkSelected (s : State) :
    (ledOff s).linkSelected = s.linkSelected := rfl
@[simp] theorem ledOff_led (s : State) :
    (ledOff s).led = false := rfl
@[simp] theorem ledOff_store (s : State) :
    (ledOff s).store = s.store := rfl
@[simp] theorem ledOff_events (s : State) :
    (ledOff s).events = s.events := rfl
@[simp] theorem ledOff_linkIn (s : State) :
    (ledOff s).linkIn = s.linkIn := rfl
@[simp] theorem ledOff_storeIn (s : State) :
    (ledOff s).storeIn = s.storeIn := rfl
@[simp] theorem ledOff_draws (s : State) :
    (ledOff s).draws = s.draws := rfl
@[simp] theorem ledOff_trace (s : State) :
    (ledOff s).trace = s.trace ++ [.ledOff] := rfl
@[simp] theorem ledOff_ret (s : State) :
    (ledOff s).ret = s.ret := rfl
@[simp] theorem ledOff_seekDone (s : State) :
    (ledOff s).seekDone = s.seekDone := rfl

/-! ## readLiveState -/

@[simp] theorem readLiveState_df (s : State) :
    (readLiveState s).df = s.df := rfl
@[simp] theorem readLiveState_buf (s : State) :
    (readLiveState s).buf = s.buf := rfl
@[simp] theorem readLiveState_error (s : State) :
    (readLiveState s).error = s.error := rfl
@[simp] theorem readLiveState_ctl (s : State) :
    (readLiveState s).ctl = s.ctl := rfl
@[simp] theorem readLiveState_drives (s : State) :
    (readLiveState s).drives = s.drives := rfl
@[simp] theorem readLiveState_sel (s : State) :
    (readLiveState s).sel = s.sel := rfl
@[simp] theorem readLiveState_sector (s : State) :
    (readLiveState s).sector = s.sector := rfl
@[simp] theorem readLiveState_lsStatus (s : State) :
    (readLiveState s).lsStatus = byteAt (received 6 s) 0 := rfl
@[simp] theorem readLiveState_lsTrack (s : State) :
    (readLiveState s).lsTrack = byteAt (received 6 s) 1 := rfl
@[simp] theorem readLiveState_lsSync (s : State) :
    (readLiveState s).lsSync = wordOf (byteAt (received 6 s) 2) (byteAt (received 6 s) 3) := rfl
@[simp] theorem readLiveState_lsLen (s : State) :
    (readLiveState s).lsLen = lengthOf (byteAt (received 6 s) 4) (byteAt (received 6 s) 5) := rfl
@[simp] theorem readLiveState_lsActive (s : State) :
    (readLiveState s).lsActive = activeOf (byteAt (received 6 s) 4) := rfl
@[simp] theorem readLiveState_lt (s : State) :
    (readLiveState s).lt = s.lt := rfl
@[simp] theorem readLiveState_sync (s : State) :
    (readLiveState s).sync = s.sync := rfl
@[simp] theorem readLiveState_found (s : State) :
    (readLiveState s).found = s.found := rfl
@[simp] theorem readLiveState_off (s : State) :
    (readLiveState s).off = s.off := rfl
@[simp] theorem readLiveState_hdrTrack (s : State) :
    (readLiveState s).hdrTrack = s.hdrTrack := rfl
@[simp] theorem readLiveState_hdrSector (s : State) :
    (readLiveState s).hdrSector = s.hdrSector := rfl
@[simp] theorem readLiveState_b (s : State) :
    (readLiveState s).b = s.b := rfl
@[simp] theorem readLiveState_lane (s : State) :
    (readLiveState s).lane = s.lane := rfl
@[simp] theorem readLiveState_cks (s : State) :
    (readLiveState s).cks = s.cks := rfl
@[simp] theorem readLiveState_o (s : State) :
    (readLiveState s).o = s.o := rfl
@[simp] theorem readLiveState_e (s : State) :
    (readLiveState s).e = s.e := rfl
@[simp] theorem readLiveState_wo (s : State) :
    (readLiveState s).wo = s.wo := rfl
@[simp] theorem readLiveState_we (s : State) :
    (readLiveState s).we = s.we := rfl
@[simp] theorem readLiveState_linkSelected (s : State) :
    (readLiveState s).linkSelected = s.linkSelected := rfl
@[simp] theorem readLiveState_led (s : State) :
    (readLiveState s).led = s.led := rfl
@[simp] theorem readLiveState_store (s : State) :
    (readLiveState s).store = s.store := rfl
@[simp] theorem readLiveState_events (s : State) :
    (readLiveState s).events = s.events := rfl
@[simp] theorem readLiveState_linkIn (s : State) :
    (readLiveState s).linkIn = s.linkIn.drop 6 := rfl
@[simp] theorem readLiveState_storeIn (s : State) :
    (readLiveState s).storeIn = s.storeIn := rfl
@[simp] theorem readLiveState_draws (s : State) :
    (readLiveState s).draws = s.draws + 6 := rfl
@[simp] theorem readLiveState_trace (s : State) :
    (readLiveState s).trace = s.trace ++ (received 6 s).map fun b => PortEvent.xfer Config.linkIdleTx (some b) := rfl
@[simp] theorem readLiveState_ret (s : State) :
    (readLiveState s).ret = s.ret := rfl
@[simp] theorem readLiveState_seekDone (s : State) :
    (readLiveState s).seekDone = s.seekDone := rfl

/-! ## huntOver -/

@[simp] theorem huntOver_df (s : State) :
    (huntOver s).df = s.df := rfl
@[simp] theorem huntOver_buf (s : State) :
    (huntOver s).buf = s.buf := rfl
@[simp] theorem huntOver_error (s : State) :
    (huntOver s).error = s.error := rfl
@[simp] theorem huntOver_ctl (s : State) :
    (huntOver s).ctl = s.ctl := rfl
@[simp] theorem huntOver_drives (s : State) :
    (huntOver s).drives = s.drives := rfl
@[simp] theorem huntOver_sel (s : State) :
    (huntOver s).sel = s.sel := rfl
@[simp] theorem huntOver_sector (s : State) :
    (huntOver s).sector = s.sector := rfl
@[simp] theorem huntOver_lsStatus (s : State) :
    (huntOver s).lsStatus = s.lsStatus := rfl
@[simp] theorem huntOver_lsTrack (s : State) :
    (huntOver s).lsTrack = s.lsTrack := rfl
@[simp] theorem huntOver_lsSync (s : State) :
    (huntOver s).lsSync = s.lsSync := rfl
@[simp] theorem huntOver_lsLen (s : State) :
    (huntOver s).lsLen = s.lsLen := rfl
@[simp] theorem huntOver_lsActive (s : State) :
    (huntOver s).lsActive = s.lsActive := rfl
@[simp] theorem huntOver_lt (s : State) :
    (huntOver s).lt = s.lt := rfl
@[simp] theorem huntOver_sync (s : State) :
    (huntOver s).sync = s.sync := rfl
@[simp] theorem huntOver_found (s : State) :
    (huntOver s).found = false := rfl
@[simp] theorem huntOver_off (s : State) :
    (huntOver s).off = s.off := rfl
@[simp] theorem huntOver_hdrTrack (s : State) :
    (huntOver s).hdrTrack = s.hdrTrack := rfl
@[simp] theorem huntOver_hdrSector (s : State) :
    (huntOver s).hdrSector = s.hdrSector := rfl
@[simp] theorem huntOver_b (s : State) :
    (huntOver s).b = s.b := rfl
@[simp] theorem huntOver_lane (s : State) :
    (huntOver s).lane = s.lane := rfl
@[simp] theorem huntOver_cks (s : State) :
    (huntOver s).cks = s.cks := rfl
@[simp] theorem huntOver_o (s : State) :
    (huntOver s).o = s.o := rfl
@[simp] theorem huntOver_e (s : State) :
    (huntOver s).e = s.e := rfl
@[simp] theorem huntOver_wo (s : State) :
    (huntOver s).wo = s.wo := rfl
@[simp] theorem huntOver_we (s : State) :
    (huntOver s).we = s.we := rfl
@[simp] theorem huntOver_linkSelected (s : State) :
    (huntOver s).linkSelected = s.linkSelected := rfl
@[simp] theorem huntOver_led (s : State) :
    (huntOver s).led = s.led := rfl
@[simp] theorem huntOver_store (s : State) :
    (huntOver s).store = s.store := rfl
@[simp] theorem huntOver_events (s : State) :
    (huntOver s).events = s.events := rfl
@[simp] theorem huntOver_linkIn (s : State) :
    (huntOver s).linkIn = s.linkIn := rfl
@[simp] theorem huntOver_storeIn (s : State) :
    (huntOver s).storeIn = s.storeIn := rfl
@[simp] theorem huntOver_draws (s : State) :
    (huntOver s).draws = s.draws := rfl
@[simp] theorem huntOver_trace (s : State) :
    (huntOver s).trace = s.trace := rfl
@[simp] theorem huntOver_ret (s : State) :
    (huntOver s).ret = some false := rfl
@[simp] theorem huntOver_seekDone (s : State) :
    (huntOver s).seekDone = s.seekDone := rfl

/-! ## openData -/

@[simp] theorem openData_df (s : State) :
    (openData s).df = s.df := rfl
@[simp] theorem openData_buf (s : State) :
    (openData s).buf = s.buf := rfl
@[simp] theorem openData_error (s : State) :
    (openData s).error = s.error := rfl
@[simp] theorem openData_ctl (s : State) :
    (openData s).ctl = s.ctl := rfl
@[simp] theorem openData_drives (s : State) :
    (openData s).drives = s.drives := rfl
@[simp] theorem openData_sel (s : State) :
    (openData s).sel = s.sel := rfl
@[simp] theorem openData_sector (s : State) :
    (openData s).sector = s.sector := rfl
@[simp] theorem openData_lt (s : State) :
    (openData s).lt = s.lt := rfl
@[simp] theorem openData_sync (s : State) :
    (openData s).sync = s.sync := rfl
@[simp] theorem openData_found (s : State) :
    (openData s).found = s.found := rfl
@[simp] theorem openData_off (s : State) :
    (openData s).off = s.off := rfl
@[simp] theorem openData_hdrTrack (s : State) :
    (openData s).hdrTrack = s.hdrTrack := rfl
@[simp] theorem openData_hdrSector (s : State) :
    (openData s).hdrSector = s.hdrSector := rfl
@[simp] theorem openData_b (s : State) :
    (openData s).b = s.b := rfl
@[simp] theorem openData_lane (s : State) :
    (openData s).lane = s.lane := rfl
@[simp] theorem openData_cks (s : State) :
    (openData s).cks = s.cks := rfl
@[simp] theorem openData_o (s : State) :
    (openData s).o = s.o := rfl
@[simp] theorem openData_e (s : State) :
    (openData s).e = s.e := rfl
@[simp] theorem openData_wo (s : State) :
    (openData s).wo = s.wo := rfl
@[simp] theorem openData_we (s : State) :
    (openData s).we = s.we := rfl
@[simp] theorem openData_linkSelected (s : State) :
    (openData s).linkSelected = true := rfl
@[simp] theorem openData_led (s : State) :
    (openData s).led = s.led := rfl
@[simp] theorem openData_store (s : State) :
    (openData s).store = s.store := rfl
@[simp] theorem openData_events (s : State) :
    (openData s).events = s.events := rfl
@[simp] theorem openData_linkIn (s : State) :
    (openData s).linkIn = s.linkIn.drop 6 := rfl
@[simp] theorem openData_storeIn (s : State) :
    (openData s).storeIn = s.storeIn := rfl
@[simp] theorem openData_draws (s : State) :
    (openData s).draws = s.draws + 6 := rfl
@[simp] theorem openData_ret (s : State) :
    (openData s).ret = s.ret := rfl
@[simp] theorem openData_seekDone (s : State) :
    (openData s).seekDone = s.seekDone := rfl

/-! ## receiveInfo -/

@[simp] theorem receiveInfo_df (s : State) :
    (receiveInfo s).df = s.df := rfl
@[simp] theorem receiveInfo_buf (s : State) :
    (receiveInfo s).buf = s.buf := rfl
@[simp] theorem receiveInfo_error (s : State) :
    (receiveInfo s).error = s.error := rfl
@[simp] theorem receiveInfo_ctl (s : State) :
    (receiveInfo s).ctl = s.ctl := rfl
@[simp] theorem receiveInfo_drives (s : State) :
    (receiveInfo s).drives = s.drives := rfl
@[simp] theorem receiveInfo_sel (s : State) :
    (receiveInfo s).sel = s.sel := rfl
@[simp] theorem receiveInfo_sector (s : State) :
    (receiveInfo s).sector = s.sector := rfl
@[simp] theorem receiveInfo_lsStatus (s : State) :
    (receiveInfo s).lsStatus = s.lsStatus := rfl
@[simp] theorem receiveInfo_lsTrack (s : State) :
    (receiveInfo s).lsTrack = s.lsTrack := rfl
@[simp] theorem receiveInfo_lsSync (s : State) :
    (receiveInfo s).lsSync = s.lsSync := rfl
@[simp] theorem receiveInfo_lsLen (s : State) :
    (receiveInfo s).lsLen = s.lsLen := rfl
@[simp] theorem receiveInfo_lsActive (s : State) :
    (receiveInfo s).lsActive = s.lsActive := rfl
@[simp] theorem receiveInfo_lt (s : State) :
    (receiveInfo s).lt = s.lt := rfl
@[simp] theorem receiveInfo_sync (s : State) :
    (receiveInfo s).sync = s.sync := rfl
@[simp] theorem receiveInfo_found (s : State) :
    (receiveInfo s).found = s.found := rfl
@[simp] theorem receiveInfo_off (s : State) :
    (receiveInfo s).off = s.off := rfl
@[simp] theorem receiveInfo_hdrTrack (s : State) :
    (receiveInfo s).hdrTrack = s.hdrTrack := rfl
@[simp] theorem receiveInfo_hdrSector (s : State) :
    (receiveInfo s).hdrSector = s.hdrSector := rfl
@[simp] theorem receiveInfo_b (s : State) :
    (receiveInfo s).b = Quad.zipWith merge (quadAt (received 8 s) 0) (quadAt (received 8 s) 4) := rfl
@[simp] theorem receiveInfo_lane (s : State) :
    (receiveInfo s).lane = Quad.zipWith (· ^^^ ·) (quadAt (received 8 s) 0) (quadAt (received 8 s) 4) := rfl
@[simp] theorem receiveInfo_cks (s : State) :
    (receiveInfo s).cks = s.cks := rfl
@[simp] theorem receiveInfo_o (s : State) :
    (receiveInfo s).o = quadAt (received 8 s) 0 := rfl
@[simp] theorem receiveInfo_e (s : State) :
    (receiveInfo s).e = quadAt (received 8 s) 4 := rfl
@[simp] theorem receiveInfo_wo (s : State) :
    (receiveInfo s).wo = s.wo := rfl
@[simp] theorem receiveInfo_we (s : State) :
    (receiveInfo s).we = s.we := rfl
@[simp] theorem receiveInfo_linkSelected (s : State) :
    (receiveInfo s).linkSelected = s.linkSelected := rfl
@[simp] theorem receiveInfo_led (s : State) :
    (receiveInfo s).led = s.led := rfl
@[simp] theorem receiveInfo_store (s : State) :
    (receiveInfo s).store = s.store := rfl
@[simp] theorem receiveInfo_events (s : State) :
    (receiveInfo s).events = s.events := rfl
@[simp] theorem receiveInfo_linkIn (s : State) :
    (receiveInfo s).linkIn = s.linkIn.drop 8 := rfl
@[simp] theorem receiveInfo_storeIn (s : State) :
    (receiveInfo s).storeIn = s.storeIn := rfl
@[simp] theorem receiveInfo_draws (s : State) :
    (receiveInfo s).draws = s.draws + 8 := rfl
@[simp] theorem receiveInfo_trace (s : State) :
    (receiveInfo s).trace = s.trace ++ (received 8 s).map fun b => PortEvent.xfer Config.linkIdleTx (some b) := rfl
@[simp] theorem receiveInfo_ret (s : State) :
    (receiveInfo s).ret = s.ret := rfl
@[simp] theorem receiveInfo_seekDone (s : State) :
    (receiveInfo s).seekDone = s.seekDone := rfl

/-! ## takeHeader -/

@[simp] theorem takeHeader_df (s : State) :
    (takeHeader s).df = s.df := rfl
@[simp] theorem takeHeader_buf (s : State) :
    (takeHeader s).buf = s.buf := rfl
@[simp] theorem takeHeader_error (s : State) :
    (takeHeader s).error = s.error := rfl
@[simp] theorem takeHeader_ctl (s : State) :
    (takeHeader s).ctl = s.ctl := rfl
@[simp] theorem takeHeader_drives (s : State) :
    (takeHeader s).drives = s.drives := rfl
@[simp] theorem takeHeader_sel (s : State) :
    (takeHeader s).sel = s.sel := rfl
@[simp] theorem takeHeader_sector (s : State) :
    (takeHeader s).sector = s.sector := rfl
@[simp] theorem takeHeader_lsStatus (s : State) :
    (takeHeader s).lsStatus = s.lsStatus := rfl
@[simp] theorem takeHeader_lsTrack (s : State) :
    (takeHeader s).lsTrack = s.lsTrack := rfl
@[simp] theorem takeHeader_lsSync (s : State) :
    (takeHeader s).lsSync = s.lsSync := rfl
@[simp] theorem takeHeader_lsLen (s : State) :
    (takeHeader s).lsLen = s.lsLen := rfl
@[simp] theorem takeHeader_lsActive (s : State) :
    (takeHeader s).lsActive = s.lsActive := rfl
@[simp] theorem takeHeader_lt (s : State) :
    (takeHeader s).lt = s.lt := rfl
@[simp] theorem takeHeader_sync (s : State) :
    (takeHeader s).sync = s.sync := rfl
@[simp] theorem takeHeader_found (s : State) :
    (takeHeader s).found = s.found := rfl
@[simp] theorem takeHeader_off (s : State) :
    (takeHeader s).off = s.off := rfl
@[simp] theorem takeHeader_hdrTrack (s : State) :
    (takeHeader s).hdrTrack = s.b.q1 := rfl
@[simp] theorem takeHeader_hdrSector (s : State) :
    (takeHeader s).hdrSector = s.b.q2 := rfl
@[simp] theorem takeHeader_b (s : State) :
    (takeHeader s).b = s.b := rfl
@[simp] theorem takeHeader_lane (s : State) :
    (takeHeader s).lane = s.lane := rfl
@[simp] theorem takeHeader_cks (s : State) :
    (takeHeader s).cks = s.cks := rfl
@[simp] theorem takeHeader_o (s : State) :
    (takeHeader s).o = s.o := rfl
@[simp] theorem takeHeader_e (s : State) :
    (takeHeader s).e = s.e := rfl
@[simp] theorem takeHeader_wo (s : State) :
    (takeHeader s).wo = s.wo := rfl
@[simp] theorem takeHeader_we (s : State) :
    (takeHeader s).we = s.we := rfl
@[simp] theorem takeHeader_linkSelected (s : State) :
    (takeHeader s).linkSelected = s.linkSelected := rfl
@[simp] theorem takeHeader_led (s : State) :
    (takeHeader s).led = s.led := rfl
@[simp] theorem takeHeader_store (s : State) :
    (takeHeader s).store = s.store := rfl
@[simp] theorem takeHeader_events (s : State) :
    (takeHeader s).events = s.events := rfl
@[simp] theorem takeHeader_linkIn (s : State) :
    (takeHeader s).linkIn = s.linkIn := rfl
@[simp] theorem takeHeader_storeIn (s : State) :
    (takeHeader s).storeIn = s.storeIn := rfl
@[simp] theorem takeHeader_draws (s : State) :
    (takeHeader s).draws = s.draws := rfl
@[simp] theorem takeHeader_trace (s : State) :
    (takeHeader s).trace = s.trace := rfl
@[simp] theorem takeHeader_ret (s : State) :
    (takeHeader s).ret = s.ret := rfl
@[simp] theorem takeHeader_seekDone (s : State) :
    (takeHeader s).seekDone = s.seekDone := rfl

/-! ## receiveLabel -/

@[simp] theorem receiveLabel_df (s : State) :
    (receiveLabel s).df = s.df := rfl
@[simp] theorem receiveLabel_buf (s : State) :
    (receiveLabel s).buf = s.buf := rfl
@[simp] theorem receiveLabel_error (s : State) :
    (receiveLabel s).error = s.error := rfl
@[simp] theorem receiveLabel_ctl (s : State) :
    (receiveLabel s).ctl = s.ctl := rfl
@[simp] theorem receiveLabel_drives (s : State) :
    (receiveLabel s).drives = s.drives := rfl
@[simp] theorem receiveLabel_sel (s : State) :
    (receiveLabel s).sel = s.sel := rfl
@[simp] theorem receiveLabel_sector (s : State) :
    (receiveLabel s).sector = s.sector := rfl
@[simp] theorem receiveLabel_lsStatus (s : State) :
    (receiveLabel s).lsStatus = s.lsStatus := rfl
@[simp] theorem receiveLabel_lsTrack (s : State) :
    (receiveLabel s).lsTrack = s.lsTrack := rfl
@[simp] theorem receiveLabel_lsSync (s : State) :
    (receiveLabel s).lsSync = s.lsSync := rfl
@[simp] theorem receiveLabel_lsLen (s : State) :
    (receiveLabel s).lsLen = s.lsLen := rfl
@[simp] theorem receiveLabel_lsActive (s : State) :
    (receiveLabel s).lsActive = s.lsActive := rfl
@[simp] theorem receiveLabel_lt (s : State) :
    (receiveLabel s).lt = s.lt := rfl
@[simp] theorem receiveLabel_sync (s : State) :
    (receiveLabel s).sync = s.sync := rfl
@[simp] theorem receiveLabel_found (s : State) :
    (receiveLabel s).found = s.found := rfl
@[simp] theorem receiveLabel_off (s : State) :
    (receiveLabel s).off = s.off := rfl
@[simp] theorem receiveLabel_hdrTrack (s : State) :
    (receiveLabel s).hdrTrack = s.hdrTrack := rfl
@[simp] theorem receiveLabel_hdrSector (s : State) :
    (receiveLabel s).hdrSector = s.hdrSector := rfl
@[simp] theorem receiveLabel_b (s : State) :
    (receiveLabel s).b = s.b := rfl
@[simp] theorem receiveLabel_lane (s : State) :
    (receiveLabel s).lane = maskLanes (foldLanes s.lane 0 (received 32 s)) := rfl
@[simp] theorem receiveLabel_cks (s : State) :
    (receiveLabel s).cks = s.cks := rfl
@[simp] theorem receiveLabel_o (s : State) :
    (receiveLabel s).o = s.o := rfl
@[simp] theorem receiveLabel_e (s : State) :
    (receiveLabel s).e = s.e := rfl
@[simp] theorem receiveLabel_wo (s : State) :
    (receiveLabel s).wo = s.wo := rfl
@[simp] theorem receiveLabel_we (s : State) :
    (receiveLabel s).we = s.we := rfl
@[simp] theorem receiveLabel_linkSelected (s : State) :
    (receiveLabel s).linkSelected = s.linkSelected := rfl
@[simp] theorem receiveLabel_led (s : State) :
    (receiveLabel s).led = s.led := rfl
@[simp] theorem receiveLabel_store (s : State) :
    (receiveLabel s).store = s.store := rfl
@[simp] theorem receiveLabel_events (s : State) :
    (receiveLabel s).events = s.events := rfl
@[simp] theorem receiveLabel_linkIn (s : State) :
    (receiveLabel s).linkIn = s.linkIn.drop 32 := rfl
@[simp] theorem receiveLabel_storeIn (s : State) :
    (receiveLabel s).storeIn = s.storeIn := rfl
@[simp] theorem receiveLabel_draws (s : State) :
    (receiveLabel s).draws = s.draws + 32 := rfl
@[simp] theorem receiveLabel_trace (s : State) :
    (receiveLabel s).trace = s.trace ++ (received 32 s).map fun b => PortEvent.xfer Config.linkIdleTx (some b) := rfl
@[simp] theorem receiveLabel_ret (s : State) :
    (receiveLabel s).ret = s.ret := rfl
@[simp] theorem receiveLabel_seekDone (s : State) :
    (receiveLabel s).seekDone = s.seekDone := rfl

/-! ## receiveChecksum -/

@[simp] theorem receiveChecksum_df (s : State) :
    (receiveChecksum s).df = s.df := rfl
@[simp] theorem receiveChecksum_buf (s : State) :
    (receiveChecksum s).buf = s.buf := rfl
@[simp] theorem receiveChecksum_error (s : State) :
    (receiveChecksum s).error = s.error := rfl
@[simp] theorem receiveChecksum_ctl (s : State) :
    (receiveChecksum s).ctl = s.ctl := rfl
@[simp] theorem receiveChecksum_drives (s : State) :
    (receiveChecksum s).drives = s.drives := rfl
@[simp] theorem receiveChecksum_sel (s : State) :
    (receiveChecksum s).sel = s.sel := rfl
@[simp] theorem receiveChecksum_sector (s : State) :
    (receiveChecksum s).sector = s.sector := rfl
@[simp] theorem receiveChecksum_lsStatus (s : State) :
    (receiveChecksum s).lsStatus = s.lsStatus := rfl
@[simp] theorem receiveChecksum_lsTrack (s : State) :
    (receiveChecksum s).lsTrack = s.lsTrack := rfl
@[simp] theorem receiveChecksum_lsSync (s : State) :
    (receiveChecksum s).lsSync = s.lsSync := rfl
@[simp] theorem receiveChecksum_lsLen (s : State) :
    (receiveChecksum s).lsLen = s.lsLen := rfl
@[simp] theorem receiveChecksum_lsActive (s : State) :
    (receiveChecksum s).lsActive = s.lsActive := rfl
@[simp] theorem receiveChecksum_lt (s : State) :
    (receiveChecksum s).lt = s.lt := rfl
@[simp] theorem receiveChecksum_sync (s : State) :
    (receiveChecksum s).sync = s.sync := rfl
@[simp] theorem receiveChecksum_found (s : State) :
    (receiveChecksum s).found = s.found := rfl
@[simp] theorem receiveChecksum_off (s : State) :
    (receiveChecksum s).off = s.off := rfl
@[simp] theorem receiveChecksum_hdrTrack (s : State) :
    (receiveChecksum s).hdrTrack = s.hdrTrack := rfl
@[simp] theorem receiveChecksum_hdrSector (s : State) :
    (receiveChecksum s).hdrSector = s.hdrSector := rfl
@[simp] theorem receiveChecksum_b (s : State) :
    (receiveChecksum s).b = s.b := rfl
@[simp] theorem receiveChecksum_lane (s : State) :
    (receiveChecksum s).lane = s.lane := rfl
@[simp] theorem receiveChecksum_cks (s : State) :
    (receiveChecksum s).cks = Quad.zipWith merge (quadAt (received 8 s) 0) (quadAt (received 8 s) 4) := rfl
@[simp] theorem receiveChecksum_o (s : State) :
    (receiveChecksum s).o = s.o := rfl
@[simp] theorem receiveChecksum_e (s : State) :
    (receiveChecksum s).e = s.e := rfl
@[simp] theorem receiveChecksum_wo (s : State) :
    (receiveChecksum s).wo = quadAt (received 8 s) 0 := rfl
@[simp] theorem receiveChecksum_we (s : State) :
    (receiveChecksum s).we = quadAt (received 8 s) 4 := rfl
@[simp] theorem receiveChecksum_linkSelected (s : State) :
    (receiveChecksum s).linkSelected = s.linkSelected := rfl
@[simp] theorem receiveChecksum_led (s : State) :
    (receiveChecksum s).led = s.led := rfl
@[simp] theorem receiveChecksum_store (s : State) :
    (receiveChecksum s).store = s.store := rfl
@[simp] theorem receiveChecksum_events (s : State) :
    (receiveChecksum s).events = s.events := rfl
@[simp] theorem receiveChecksum_linkIn (s : State) :
    (receiveChecksum s).linkIn = s.linkIn.drop 8 := rfl
@[simp] theorem receiveChecksum_storeIn (s : State) :
    (receiveChecksum s).storeIn = s.storeIn := rfl
@[simp] theorem receiveChecksum_draws (s : State) :
    (receiveChecksum s).draws = s.draws + 8 := rfl
@[simp] theorem receiveChecksum_trace (s : State) :
    (receiveChecksum s).trace = s.trace ++ (received 8 s).map fun b => PortEvent.xfer Config.linkIdleTx (some b) := rfl
@[simp] theorem receiveChecksum_ret (s : State) :
    (receiveChecksum s).ret = s.ret := rfl
@[simp] theorem receiveChecksum_seekDone (s : State) :
    (receiveChecksum s).seekDone = s.seekDone := rfl

/-! ## receivePayload -/

@[simp] theorem receivePayload_df (s : State) :
    (receivePayload s).df = s.df := rfl
@[simp] theorem receivePayload_buf (s : State) :
    (receivePayload s).buf = mergePasses ((received 1024 s).take 512) ((received 1024 s).drop 512) := rfl
@[simp] theorem receivePayload_error (s : State) :
    (receivePayload s).error = s.error := rfl
@[simp] theorem receivePayload_ctl (s : State) :
    (receivePayload s).ctl = s.ctl := rfl
@[simp] theorem receivePayload_drives (s : State) :
    (receivePayload s).drives = s.drives := rfl
@[simp] theorem receivePayload_sel (s : State) :
    (receivePayload s).sel = s.sel := rfl
@[simp] theorem receivePayload_sector (s : State) :
    (receivePayload s).sector = s.sector := rfl
@[simp] theorem receivePayload_lsStatus (s : State) :
    (receivePayload s).lsStatus = s.lsStatus := rfl
@[simp] theorem receivePayload_lsTrack (s : State) :
    (receivePayload s).lsTrack = s.lsTrack := rfl
@[simp] theorem receivePayload_lsSync (s : State) :
    (receivePayload s).lsSync = s.lsSync := rfl
@[simp] theorem receivePayload_lsLen (s : State) :
    (receivePayload s).lsLen = s.lsLen := rfl
@[simp] theorem receivePayload_lsActive (s : State) :
    (receivePayload s).lsActive = s.lsActive := rfl
@[simp] theorem receivePayload_lt (s : State) :
    (receivePayload s).lt = s.lt := rfl
@[simp] theorem receivePayload_sync (s : State) :
    (receivePayload s).sync = s.sync := rfl
@[simp] theorem receivePayload_found (s : State) :
    (receivePayload s).found = s.found := rfl
@[simp] theorem receivePayload_off (s : State) :
    (receivePayload s).off = s.off := rfl
@[simp] theorem receivePayload_hdrTrack (s : State) :
    (receivePayload s).hdrTrack = s.hdrTrack := rfl
@[simp] theorem receivePayload_hdrSector (s : State) :
    (receivePayload s).hdrSector = s.hdrSector := rfl
@[simp] theorem receivePayload_b (s : State) :
    (receivePayload s).b = s.b := rfl
@[simp] theorem receivePayload_cks (s : State) :
    (receivePayload s).cks = s.cks := rfl
@[simp] theorem receivePayload_o (s : State) :
    (receivePayload s).o = s.o := rfl
@[simp] theorem receivePayload_e (s : State) :
    (receivePayload s).e = s.e := rfl
@[simp] theorem receivePayload_wo (s : State) :
    (receivePayload s).wo = s.wo := rfl
@[simp] theorem receivePayload_we (s : State) :
    (receivePayload s).we = s.we := rfl
@[simp] theorem receivePayload_linkSelected (s : State) :
    (receivePayload s).linkSelected = s.linkSelected := rfl
@[simp] theorem receivePayload_led (s : State) :
    (receivePayload s).led = s.led := rfl
@[simp] theorem receivePayload_store (s : State) :
    (receivePayload s).store = s.store := rfl
@[simp] theorem receivePayload_events (s : State) :
    (receivePayload s).events = s.events := rfl
@[simp] theorem receivePayload_linkIn (s : State) :
    (receivePayload s).linkIn = s.linkIn.drop 1024 := rfl
@[simp] theorem receivePayload_storeIn (s : State) :
    (receivePayload s).storeIn = s.storeIn := rfl
@[simp] theorem receivePayload_draws (s : State) :
    (receivePayload s).draws = s.draws + 1024 := rfl
@[simp] theorem receivePayload_trace (s : State) :
    (receivePayload s).trace = s.trace ++ (received 1024 s).map fun b => PortEvent.xfer Config.linkIdleTx (some b) := rfl
@[simp] theorem receivePayload_ret (s : State) :
    (receivePayload s).ret = s.ret := rfl
@[simp] theorem receivePayload_seekDone (s : State) :
    (receivePayload s).seekDone = s.seekDone := rfl

/-! ## fillBuffer -/

@[simp] theorem fillBuffer_df (d : DriveIx) (h : Handle) (s : State) :
    (fillBuffer d h s).df = s.df := rfl
@[simp] theorem fillBuffer_buf (d : DriveIx) (h : Handle) (s : State) :
    (fillBuffer d h s).buf = readData h s := rfl
@[simp] theorem fillBuffer_error (d : DriveIx) (h : Handle) (s : State) :
    (fillBuffer d h s).error = s.error := rfl
@[simp] theorem fillBuffer_ctl (d : DriveIx) (h : Handle) (s : State) :
    (fillBuffer d h s).ctl = s.ctl := rfl
@[simp] theorem fillBuffer_drives (d : DriveIx) (h : Handle) (s : State) :
    (fillBuffer d h s).drives = s.drives := rfl
@[simp] theorem fillBuffer_sel (d : DriveIx) (h : Handle) (s : State) :
    (fillBuffer d h s).sel = s.sel := rfl
@[simp] theorem fillBuffer_sector (d : DriveIx) (h : Handle) (s : State) :
    (fillBuffer d h s).sector = s.sector := rfl
@[simp] theorem fillBuffer_lsStatus (d : DriveIx) (h : Handle) (s : State) :
    (fillBuffer d h s).lsStatus = s.lsStatus := rfl
@[simp] theorem fillBuffer_lsTrack (d : DriveIx) (h : Handle) (s : State) :
    (fillBuffer d h s).lsTrack = s.lsTrack := rfl
@[simp] theorem fillBuffer_lsSync (d : DriveIx) (h : Handle) (s : State) :
    (fillBuffer d h s).lsSync = s.lsSync := rfl
@[simp] theorem fillBuffer_lsLen (d : DriveIx) (h : Handle) (s : State) :
    (fillBuffer d h s).lsLen = s.lsLen := rfl
@[simp] theorem fillBuffer_lsActive (d : DriveIx) (h : Handle) (s : State) :
    (fillBuffer d h s).lsActive = s.lsActive := rfl
@[simp] theorem fillBuffer_lt (d : DriveIx) (h : Handle) (s : State) :
    (fillBuffer d h s).lt = s.lt := rfl
@[simp] theorem fillBuffer_sync (d : DriveIx) (h : Handle) (s : State) :
    (fillBuffer d h s).sync = s.sync := rfl
@[simp] theorem fillBuffer_found (d : DriveIx) (h : Handle) (s : State) :
    (fillBuffer d h s).found = s.found := rfl
@[simp] theorem fillBuffer_off (d : DriveIx) (h : Handle) (s : State) :
    (fillBuffer d h s).off = s.off := rfl
@[simp] theorem fillBuffer_hdrTrack (d : DriveIx) (h : Handle) (s : State) :
    (fillBuffer d h s).hdrTrack = s.hdrTrack := rfl
@[simp] theorem fillBuffer_hdrSector (d : DriveIx) (h : Handle) (s : State) :
    (fillBuffer d h s).hdrSector = s.hdrSector := rfl
@[simp] theorem fillBuffer_b (d : DriveIx) (h : Handle) (s : State) :
    (fillBuffer d h s).b = s.b := rfl
@[simp] theorem fillBuffer_lane (d : DriveIx) (h : Handle) (s : State) :
    (fillBuffer d h s).lane = s.lane := rfl
@[simp] theorem fillBuffer_cks (d : DriveIx) (h : Handle) (s : State) :
    (fillBuffer d h s).cks = s.cks := rfl
@[simp] theorem fillBuffer_o (d : DriveIx) (h : Handle) (s : State) :
    (fillBuffer d h s).o = s.o := rfl
@[simp] theorem fillBuffer_e (d : DriveIx) (h : Handle) (s : State) :
    (fillBuffer d h s).e = s.e := rfl
@[simp] theorem fillBuffer_wo (d : DriveIx) (h : Handle) (s : State) :
    (fillBuffer d h s).wo = s.wo := rfl
@[simp] theorem fillBuffer_we (d : DriveIx) (h : Handle) (s : State) :
    (fillBuffer d h s).we = s.we := rfl
@[simp] theorem fillBuffer_linkSelected (d : DriveIx) (h : Handle) (s : State) :
    (fillBuffer d h s).linkSelected = s.linkSelected := rfl
@[simp] theorem fillBuffer_led (d : DriveIx) (h : Handle) (s : State) :
    (fillBuffer d h s).led = s.led := rfl
@[simp] theorem fillBuffer_store (d : DriveIx) (h : Handle) (s : State) :
    (fillBuffer d h s).store = (storeRead d h s).store := rfl
@[simp] theorem fillBuffer_events (d : DriveIx) (h : Handle) (s : State) :
    (fillBuffer d h s).events = s.events := rfl
@[simp] theorem fillBuffer_linkIn (d : DriveIx) (h : Handle) (s : State) :
    (fillBuffer d h s).linkIn = s.linkIn := rfl
@[simp] theorem fillBuffer_storeIn (d : DriveIx) (h : Handle) (s : State) :
    (fillBuffer d h s).storeIn = s.storeIn.tail := rfl
@[simp] theorem fillBuffer_draws (d : DriveIx) (h : Handle) (s : State) :
    (fillBuffer d h s).draws = s.draws + 1 := rfl
@[simp] theorem fillBuffer_trace (d : DriveIx) (h : Handle) (s : State) :
    (fillBuffer d h s).trace = s.trace ++ [.storeRead d (fileAt s.store h).cursor (accessOk h s)] := rfl
@[simp] theorem fillBuffer_ret (d : DriveIx) (h : Handle) (s : State) :
    (fillBuffer d h s).ret = s.ret := rfl
@[simp] theorem fillBuffer_seekDone (d : DriveIx) (h : Handle) (s : State) :
    (fillBuffer d h s).seekDone = s.seekDone := rfl

/-! ## chooseTrackSync -/

@[simp] theorem chooseTrackSync_df (d : DriveIx) (s : State) :
    (chooseTrackSync d s).df = s.df := rfl
@[simp] theorem chooseTrackSync_buf (d : DriveIx) (s : State) :
    (chooseTrackSync d s).buf = s.buf := rfl
@[simp] theorem chooseTrackSync_error (d : DriveIx) (s : State) :
    (chooseTrackSync d s).error = s.error := rfl
@[simp] theorem chooseTrackSync_ctl (d : DriveIx) (s : State) :
    (chooseTrackSync d s).ctl = s.ctl := rfl
@[simp] theorem chooseTrackSync_drives (d : DriveIx) (s : State) :
    (chooseTrackSync d s).drives = s.drives := rfl
@[simp] theorem chooseTrackSync_sel (d : DriveIx) (s : State) :
    (chooseTrackSync d s).sel = s.sel := rfl
@[simp] theorem chooseTrackSync_sector (d : DriveIx) (s : State) :
    (chooseTrackSync d s).sector = s.sector := rfl
@[simp] theorem chooseTrackSync_lsStatus (d : DriveIx) (s : State) :
    (chooseTrackSync d s).lsStatus = s.lsStatus := rfl
@[simp] theorem chooseTrackSync_lsTrack (d : DriveIx) (s : State) :
    (chooseTrackSync d s).lsTrack = s.lsTrack := rfl
@[simp] theorem chooseTrackSync_lsSync (d : DriveIx) (s : State) :
    (chooseTrackSync d s).lsSync = s.lsSync := rfl
@[simp] theorem chooseTrackSync_lsLen (d : DriveIx) (s : State) :
    (chooseTrackSync d s).lsLen = s.lsLen := rfl
@[simp] theorem chooseTrackSync_lsActive (d : DriveIx) (s : State) :
    (chooseTrackSync d s).lsActive = s.lsActive := rfl
@[simp] theorem chooseTrackSync_lt (d : DriveIx) (s : State) :
    (chooseTrackSync d s).lt = clampTrack s.lsTrack (s.drive d).tracks := rfl
@[simp] theorem chooseTrackSync_sync (d : DriveIx) (s : State) :
    (chooseTrackSync d s).sync = substituteSync s.lsSync := rfl
@[simp] theorem chooseTrackSync_found (d : DriveIx) (s : State) :
    (chooseTrackSync d s).found = s.found := rfl
@[simp] theorem chooseTrackSync_off (d : DriveIx) (s : State) :
    (chooseTrackSync d s).off = s.off := rfl
@[simp] theorem chooseTrackSync_hdrTrack (d : DriveIx) (s : State) :
    (chooseTrackSync d s).hdrTrack = s.hdrTrack := rfl
@[simp] theorem chooseTrackSync_hdrSector (d : DriveIx) (s : State) :
    (chooseTrackSync d s).hdrSector = s.hdrSector := rfl
@[simp] theorem chooseTrackSync_b (d : DriveIx) (s : State) :
    (chooseTrackSync d s).b = s.b := rfl
@[simp] theorem chooseTrackSync_lane (d : DriveIx) (s : State) :
    (chooseTrackSync d s).lane = s.lane := rfl
@[simp] theorem chooseTrackSync_cks (d : DriveIx) (s : State) :
    (chooseTrackSync d s).cks = s.cks := rfl
@[simp] theorem chooseTrackSync_o (d : DriveIx) (s : State) :
    (chooseTrackSync d s).o = s.o := rfl
@[simp] theorem chooseTrackSync_e (d : DriveIx) (s : State) :
    (chooseTrackSync d s).e = s.e := rfl
@[simp] theorem chooseTrackSync_wo (d : DriveIx) (s : State) :
    (chooseTrackSync d s).wo = s.wo := rfl
@[simp] theorem chooseTrackSync_we (d : DriveIx) (s : State) :
    (chooseTrackSync d s).we = s.we := rfl
@[simp] theorem chooseTrackSync_linkSelected (d : DriveIx) (s : State) :
    (chooseTrackSync d s).linkSelected = s.linkSelected := rfl
@[simp] theorem chooseTrackSync_led (d : DriveIx) (s : State) :
    (chooseTrackSync d s).led = s.led := rfl
@[simp] theorem chooseTrackSync_store (d : DriveIx) (s : State) :
    (chooseTrackSync d s).store = s.store := rfl
@[simp] theorem chooseTrackSync_events (d : DriveIx) (s : State) :
    (chooseTrackSync d s).events = s.events := rfl
@[simp] theorem chooseTrackSync_linkIn (d : DriveIx) (s : State) :
    (chooseTrackSync d s).linkIn = s.linkIn := rfl
@[simp] theorem chooseTrackSync_storeIn (d : DriveIx) (s : State) :
    (chooseTrackSync d s).storeIn = s.storeIn := rfl
@[simp] theorem chooseTrackSync_draws (d : DriveIx) (s : State) :
    (chooseTrackSync d s).draws = s.draws := rfl
@[simp] theorem chooseTrackSync_trace (d : DriveIx) (s : State) :
    (chooseTrackSync d s).trace = s.trace := rfl
@[simp] theorem chooseTrackSync_ret (d : DriveIx) (s : State) :
    (chooseTrackSync d s).ret = s.ret := rfl
@[simp] theorem chooseTrackSync_seekDone (d : DriveIx) (s : State) :
    (chooseTrackSync d s).seekDone = s.seekDone := rfl

/-! ## writeEntry -/

@[simp] theorem writeEntry_buf (d : DriveIx) (s : State) :
    (writeEntry d s).buf = s.buf := rfl
@[simp] theorem writeEntry_error (d : DriveIx) (s : State) :
    (writeEntry d s).error = s.error := rfl
@[simp] theorem writeEntry_ctl (d : DriveIx) (s : State) :
    (writeEntry d s).ctl = .seekSync := rfl
@[simp] theorem writeEntry_drives (d : DriveIx) (s : State) :
    (writeEntry d s).drives = s.drives := rfl
@[simp] theorem writeEntry_sel (d : DriveIx) (s : State) :
    (writeEntry d s).sel = s.sel := rfl
@[simp] theorem writeEntry_sector (d : DriveIx) (s : State) :
    (writeEntry d s).sector = s.sector := rfl
@[simp] theorem writeEntry_lsStatus (d : DriveIx) (s : State) :
    (writeEntry d s).lsStatus = s.lsStatus := rfl
@[simp] theorem writeEntry_lsTrack (d : DriveIx) (s : State) :
    (writeEntry d s).lsTrack = s.lsTrack := rfl
@[simp] theorem writeEntry_lsSync (d : DriveIx) (s : State) :
    (writeEntry d s).lsSync = s.lsSync := rfl
@[simp] theorem writeEntry_lsLen (d : DriveIx) (s : State) :
    (writeEntry d s).lsLen = s.lsLen := rfl
@[simp] theorem writeEntry_lsActive (d : DriveIx) (s : State) :
    (writeEntry d s).lsActive = s.lsActive := rfl
@[simp] theorem writeEntry_lt (d : DriveIx) (s : State) :
    (writeEntry d s).lt = s.lt := rfl
@[simp] theorem writeEntry_sync (d : DriveIx) (s : State) :
    (writeEntry d s).sync = s.sync := rfl
@[simp] theorem writeEntry_found (d : DriveIx) (s : State) :
    (writeEntry d s).found = s.found := rfl
@[simp] theorem writeEntry_off (d : DriveIx) (s : State) :
    (writeEntry d s).off = s.off := rfl
@[simp] theorem writeEntry_hdrTrack (d : DriveIx) (s : State) :
    (writeEntry d s).hdrTrack = s.hdrTrack := rfl
@[simp] theorem writeEntry_hdrSector (d : DriveIx) (s : State) :
    (writeEntry d s).hdrSector = s.hdrSector := rfl
@[simp] theorem writeEntry_b (d : DriveIx) (s : State) :
    (writeEntry d s).b = s.b := rfl
@[simp] theorem writeEntry_lane (d : DriveIx) (s : State) :
    (writeEntry d s).lane = s.lane := rfl
@[simp] theorem writeEntry_cks (d : DriveIx) (s : State) :
    (writeEntry d s).cks = s.cks := rfl
@[simp] theorem writeEntry_o (d : DriveIx) (s : State) :
    (writeEntry d s).o = s.o := rfl
@[simp] theorem writeEntry_e (d : DriveIx) (s : State) :
    (writeEntry d s).e = s.e := rfl
@[simp] theorem writeEntry_wo (d : DriveIx) (s : State) :
    (writeEntry d s).wo = s.wo := rfl
@[simp] theorem writeEntry_we (d : DriveIx) (s : State) :
    (writeEntry d s).we = s.we := rfl
@[simp] theorem writeEntry_linkSelected (d : DriveIx) (s : State) :
    (writeEntry d s).linkSelected = s.linkSelected := rfl
@[simp] theorem writeEntry_led (d : DriveIx) (s : State) :
    (writeEntry d s).led = s.led := rfl
@[simp] theorem writeEntry_store (d : DriveIx) (s : State) :
    (writeEntry d s).store = s.store := rfl
@[simp] theorem writeEntry_events (d : DriveIx) (s : State) :
    (writeEntry d s).events = s.events := rfl
@[simp] theorem writeEntry_linkIn (d : DriveIx) (s : State) :
    (writeEntry d s).linkIn = s.linkIn := rfl
@[simp] theorem writeEntry_storeIn (d : DriveIx) (s : State) :
    (writeEntry d s).storeIn = s.storeIn := rfl
@[simp] theorem writeEntry_draws (d : DriveIx) (s : State) :
    (writeEntry d s).draws = s.draws := rfl
@[simp] theorem writeEntry_trace (d : DriveIx) (s : State) :
    (writeEntry d s).trace = s.trace := rfl
@[simp] theorem writeEntry_ret (d : DriveIx) (s : State) :
    (writeEntry d s).ret = s.ret := rfl
@[simp] theorem writeEntry_seekDone (d : DriveIx) (s : State) :
    (writeEntry d s).seekDone = s.seekDone := rfl

/-! ## setTrackOp -/

@[simp] theorem setTrackOp_buf (d : DriveIx) (t : Byte) (s : State) :
    (setTrackOp d t s).buf = s.buf := rfl
@[simp] theorem setTrackOp_error (d : DriveIx) (t : Byte) (s : State) :
    (setTrackOp d t s).error = s.error := rfl
@[simp] theorem setTrackOp_ctl (d : DriveIx) (t : Byte) (s : State) :
    (setTrackOp d t s).ctl = s.ctl := rfl
@[simp] theorem setTrackOp_drives (d : DriveIx) (t : Byte) (s : State) :
    (setTrackOp d t s).drives = s.drives := rfl
@[simp] theorem setTrackOp_sel (d : DriveIx) (t : Byte) (s : State) :
    (setTrackOp d t s).sel = s.sel := rfl
@[simp] theorem setTrackOp_sector (d : DriveIx) (t : Byte) (s : State) :
    (setTrackOp d t s).sector = s.sector := rfl
@[simp] theorem setTrackOp_lsStatus (d : DriveIx) (t : Byte) (s : State) :
    (setTrackOp d t s).lsStatus = s.lsStatus := rfl
@[simp] theorem setTrackOp_lsTrack (d : DriveIx) (t : Byte) (s : State) :
    (setTrackOp d t s).lsTrack = s.lsTrack := rfl
@[simp] theorem setTrackOp_lsSync (d : DriveIx) (t : Byte) (s : State) :
    (setTrackOp d t s).lsSync = s.lsSync := rfl
@[simp] theorem setTrackOp_lsLen (d : DriveIx) (t : Byte) (s : State) :
    (setTrackOp d t s).lsLen = s.lsLen := rfl
@[simp] theorem setTrackOp_lsActive (d : DriveIx) (t : Byte) (s : State) :
    (setTrackOp d t s).lsActive = s.lsActive := rfl
@[simp] theorem setTrackOp_lt (d : DriveIx) (t : Byte) (s : State) :
    (setTrackOp d t s).lt = s.lt := rfl
@[simp] theorem setTrackOp_sync (d : DriveIx) (t : Byte) (s : State) :
    (setTrackOp d t s).sync = s.sync := rfl
@[simp] theorem setTrackOp_found (d : DriveIx) (t : Byte) (s : State) :
    (setTrackOp d t s).found = s.found := rfl
@[simp] theorem setTrackOp_off (d : DriveIx) (t : Byte) (s : State) :
    (setTrackOp d t s).off = s.off := rfl
@[simp] theorem setTrackOp_hdrTrack (d : DriveIx) (t : Byte) (s : State) :
    (setTrackOp d t s).hdrTrack = s.hdrTrack := rfl
@[simp] theorem setTrackOp_hdrSector (d : DriveIx) (t : Byte) (s : State) :
    (setTrackOp d t s).hdrSector = s.hdrSector := rfl
@[simp] theorem setTrackOp_b (d : DriveIx) (t : Byte) (s : State) :
    (setTrackOp d t s).b = s.b := rfl
@[simp] theorem setTrackOp_lane (d : DriveIx) (t : Byte) (s : State) :
    (setTrackOp d t s).lane = s.lane := rfl
@[simp] theorem setTrackOp_cks (d : DriveIx) (t : Byte) (s : State) :
    (setTrackOp d t s).cks = s.cks := rfl
@[simp] theorem setTrackOp_o (d : DriveIx) (t : Byte) (s : State) :
    (setTrackOp d t s).o = s.o := rfl
@[simp] theorem setTrackOp_e (d : DriveIx) (t : Byte) (s : State) :
    (setTrackOp d t s).e = s.e := rfl
@[simp] theorem setTrackOp_wo (d : DriveIx) (t : Byte) (s : State) :
    (setTrackOp d t s).wo = s.wo := rfl
@[simp] theorem setTrackOp_we (d : DriveIx) (t : Byte) (s : State) :
    (setTrackOp d t s).we = s.we := rfl
@[simp] theorem setTrackOp_linkSelected (d : DriveIx) (t : Byte) (s : State) :
    (setTrackOp d t s).linkSelected = s.linkSelected := rfl
@[simp] theorem setTrackOp_led (d : DriveIx) (t : Byte) (s : State) :
    (setTrackOp d t s).led = s.led := rfl
@[simp] theorem setTrackOp_store (d : DriveIx) (t : Byte) (s : State) :
    (setTrackOp d t s).store = s.store := rfl
@[simp] theorem setTrackOp_events (d : DriveIx) (t : Byte) (s : State) :
    (setTrackOp d t s).events = s.events := rfl
@[simp] theorem setTrackOp_linkIn (d : DriveIx) (t : Byte) (s : State) :
    (setTrackOp d t s).linkIn = s.linkIn := rfl
@[simp] theorem setTrackOp_storeIn (d : DriveIx) (t : Byte) (s : State) :
    (setTrackOp d t s).storeIn = s.storeIn := rfl
@[simp] theorem setTrackOp_draws (d : DriveIx) (t : Byte) (s : State) :
    (setTrackOp d t s).draws = s.draws := rfl
@[simp] theorem setTrackOp_trace (d : DriveIx) (t : Byte) (s : State) :
    (setTrackOp d t s).trace = s.trace := rfl
@[simp] theorem setTrackOp_ret (d : DriveIx) (t : Byte) (s : State) :
    (setTrackOp d t s).ret = s.ret := rfl
@[simp] theorem setTrackOp_seekDone (d : DriveIx) (t : Byte) (s : State) :
    (setTrackOp d t s).seekDone = s.seekDone := rfl

end Sys2Proof.Machine
end

