-- ==== Sys2Proof/Laws/Ops.lean ====
section
/-! SUPPORT. For each shared operation, what it can do, said once: what a receive gives, what each STORE event does to
the store and to every image byte, and, for the larger operations, the only fields they may change. -/

namespace Sys2Proof.Machine

/-! ## The drive table -/

@[simp] theorem drive_setDrive_self (d : DriveIx) (r : DriveState) (s : State) : (setDrive d r s).drive d = r := by
  simp [State.drive]

theorem drive_setDrive_of_ne {d k : DriveIx} (r : DriveState) (s : State) (h : k ≠ d) :
    (setDrive d r s).drive k = s.drive k := by
  simp [State.drive, Quad.get_set_of_ne _ _ h]

/-! ## Receiving -/

@[simp] theorem answers_length (n : Nat) (q : List Byte) (k : Nat) : (answers n q k).length = n := by
  induction n generalizing q k with
  | zero => rfl
  | succ n ih => cases q <;> simp [answers, ih]

/-- While the supply lasts, what is received is the front of the supply. -/
theorem answers_of_le {n : Nat} {q : List Byte} (h : n ≤ q.length) (k : Nat) : answers n q k = q.take n := by
  induction n generalizing q k with
  | zero => simp [answers]
  | succ n ih =>
    cases q with
    | nil => simp at h
    | cons b q => simp [answers, ih (by simpa using h)]

theorem answers_add (m n : Nat) (q : List Byte) (k : Nat) :
    answers (m + n) q k = answers m q k ++ answers n (q.drop m) (k + m) := by
  induction m generalizing q k with
  | zero => simp [answers]
  | succ m ih =>
    have e : m + 1 + n = m + n + 1 := by omega
    have e' : k + (m + 1) = k + 1 + m := by omega
    cases q with
    | nil => simpa [e, e', answers] using ih [] (k + 1)
    | cons b q => simpa [e, e', answers] using ih q (k + 1)

@[simp] theorem received_length (n : Nat) (s : State) : (received n s).length = n := answers_length _ _ _

theorem received_of_le {n : Nat} {s : State} (h : n ≤ s.linkIn.length) : received n s = s.linkIn.take n :=
  answers_of_le h _

/-- Receiving in two goes gives the same bytes as in one. -/
theorem received_add (m n : Nat) (s : State) : received (m + n) s = received m s ++ received n (recv m s) :=
  answers_add m n _ _

/-- Receiving in two goes is receiving in one. -/
theorem recv_recv (m n : Nat) (s : State) : recv n (recv m s) = recv (m + n) s := by
  unfold recv
  simp only [List.drop_drop, Nat.add_assoc, State.mk.injEq, true_and, and_true]
  have := received_add m n s
  unfold recv at this
  rw [this, List.map_append, List.append_assoc]

/-- What is received next depends on the supply and the draw counter alone. -/
theorem received_congr {s t : State} (n : Nat) (hq : t.linkIn = s.linkIn) (hd : t.draws = s.draws) :
    received n t = received n s := by
  unfold received; rw [hq, hd]

/-! ## The STORE port -/

theorem nextAnswer_cons {s : State} {a : StoreAnswer} {rest : List StoreAnswer} (h : s.storeIn = a :: rest) :
    nextAnswer s = a := by
  unfold nextAnswer; rw [h]

theorem nextAnswer_congr {s t : State} (hq : t.storeIn = s.storeIn) (hd : t.draws = s.draws) :
    nextAnswer t = nextAnswer s := by
  unfold nextAnswer; rw [hq, hd]

/-- A STORE event on a handle leaves the other files alone and gives its own file a new value. -/
theorem fileAt_storeSeek (d : DriveIx) (h : Handle) (off : Nat) (s : State) (k : Nat) :
    fileAt (storeSeek d h off s).store k =
      if k = h then
        { fileAt s.store h with cursor := if seekOk h off s then off else (nextAnswer s).cursor }
      else fileAt s.store k := by
  by_cases e : k = h
  · subst e; simp [storeSeek]
  · simpa [storeSeek, e] using fileAt_setFile_of_ne _ _ e

theorem fileAt_storeRead (d : DriveIx) (h : Handle) (s : State) (k : Nat) :
    fileAt (storeRead d h s).store k =
      if k = h then
        { fileAt s.store h with
          cursor := if accessOk h s then (fileAt s.store h).cursor + 512 else (nextAnswer s).cursor }
      else fileAt s.store k := by
  by_cases e : k = h
  · subst e; simp [storeRead]
  · simpa [storeRead, e] using fileAt_setFile_of_ne _ _ e

theorem fileAt_storeWrite (d : DriveIx) (h : Handle) (blk : Block) (s : State) (k : Nat) :
    fileAt (storeWrite d h blk s).store k =
      if k = h then
        { cells := writeCells (fileAt s.store h).cells (fileAt s.store h).size (fileAt s.store h).cursor
            (if accessOk h s then blk else (nextAnswer s).block)
          size := (fileAt s.store h).size
          cursor := if accessOk h s then (fileAt s.store h).cursor + 512 else (nextAnswer s).cursor
          unflushed := (fileAt s.store h).unflushed ++ [(fileAt s.store h).cursor] }
      else fileAt s.store k := by
  by_cases e : k = h
  · subst e; simp [storeWrite]
  · simpa [storeWrite, e] using fileAt_setFile_of_ne _ _ e

theorem fileAt_storeTell (d : DriveIx) (h : Handle) (s : State) (k : Nat) :
    fileAt (storeTell d h s).store k =
      if k = h then
        { fileAt s.store h with
          cursor := if (nextAnswer s).ok then (fileAt s.store h).cursor else (nextAnswer s).cursor }
      else fileAt s.store k := by
  by_cases e : k = h
  · subst e; simp [storeTell]
  · simpa [storeTell, e] using fileAt_setFile_of_ne _ _ e

theorem fileAt_storeFlush (d : DriveIx) (h : Handle) (s : State) (k : Nat) :
    fileAt (storeFlush d h s).store k =
      if k = h then
        { fileAt s.store h with
          unflushed := if (nextAnswer s).ok then [] else (fileAt s.store h).unflushed
          cursor := if (nextAnswer s).ok then (fileAt s.store h).cursor else (nextAnswer s).cursor }
      else fileAt s.store k := by
  by_cases e : k = h
  · subst e; simp [storeFlush]
  · simpa [storeFlush, e] using fileAt_setFile_of_ne _ _ e

/-- Seek, read, tell and flush write no image byte. -/
theorem imageByte_storeSeek (d : DriveIx) (h : Handle) (off : Nat) (s : State) (k : Handle) (a : Nat) :
    imageByte (storeSeek d h off s) k a = imageByte s k a := by
  unfold imageByte; rw [fileAt_storeSeek]; split
  · next e => rw [e]
  · rfl

theorem imageByte_storeRead (d : DriveIx) (h : Handle) (s : State) (k : Handle) (a : Nat) :
    imageByte (storeRead d h s) k a = imageByte s k a := by
  unfold imageByte; rw [fileAt_storeRead]; split
  · next e => rw [e]
  · rfl

theorem imageByte_storeTell (d : DriveIx) (h : Handle) (s : State) (k : Handle) (a : Nat) :
    imageByte (storeTell d h s) k a = imageByte s k a := by
  unfold imageByte; rw [fileAt_storeTell]; split
  · next e => rw [e]
  · rfl

theorem imageByte_storeFlush (d : DriveIx) (h : Handle) (s : State) (k : Handle) (a : Nat) :
    imageByte (storeFlush d h s) k a = imageByte s k a := by
  unfold imageByte; rw [fileAt_storeFlush]; split
  · next e => rw [e]
  · rfl

/-- A write changes image bytes in the 512 from the cursor on only, and in its own file only. -/
theorem imageByte_storeWrite_outside (d : DriveIx) (h : Handle) (blk : Block) (s : State) (k : Handle) (a : Nat)
    (ha : k ≠ h ∨ a < (fileAt s.store h).cursor ∨ (fileAt s.store h).cursor + 512 ≤ a) :
    imageByte (storeWrite d h blk s) k a = imageByte s k a := by
  unfold imageByte; rw [fileAt_storeWrite]; split
  · next e =>
    subst e
    exact cellAt_writeCells_outside (by rcases ha with ha | ha; exact absurd rfl ha; exact ha)
  · rfl

/-- A seek, a read and a tell touch nothing of the store but the cursor of their own file. -/
theorem storeSeek_cursorOnly (d : DriveIx) (h : Handle) (off : Nat) (s : State) : CursorOnly h s (storeSeek d h off s) := by
  refine ⟨fun k hk => ?_, ?_⟩ <;> rw [fileAt_storeSeek]
  · rw [if_neg hk]
  · rw [if_pos rfl]

theorem storeRead_cursorOnly (d : DriveIx) (h : Handle) (s : State) : CursorOnly h s (storeRead d h s) := by
  refine ⟨fun k hk => ?_, ?_⟩ <;> rw [fileAt_storeRead]
  · rw [if_neg hk]
  · rw [if_pos rfl]

theorem storeTell_cursorOnly (d : DriveIx) (h : Handle) (s : State) : CursorOnly h s (storeTell d h s) := by
  refine ⟨fun k hk => ?_, ?_⟩ <;> rw [fileAt_storeTell]
  · rw [if_neg hk]
  · rw [if_pos rfl]

theorem CursorOnly.trans {h : Handle} {s t u : State} (a : CursorOnly h s t) (b : CursorOnly h t u) : CursorOnly h s u := by
  refine ⟨fun k hk => (b.1 k hk).trans (a.1 k hk), ?_⟩
  rw [b.2, a.2]

/-- Which states these are depends on the stores alone. -/
theorem CursorOnly.congr {h : Handle} {s t s' t' : State} (a : CursorOnly h s t) (hs : s'.store = s.store)
    (ht : t'.store = t.store) : CursorOnly h s' t' := by
  unfold CursorOnly; rw [hs, ht]; exact a

/-- Every STORE event keeps the store's canonical form. -/
theorem storeSeek_wf {s : State} (hw : Store.wf s.store) (d : DriveIx) (h : Handle) (off : Nat) :
    Store.wf (storeSeek d h off s).store := setFile_wf hw h (fileAt_wf hw h)

theorem storeRead_wf {s : State} (hw : Store.wf s.store) (d : DriveIx) (h : Handle) :
    Store.wf (storeRead d h s).store := setFile_wf hw h (fileAt_wf hw h)

theorem storeTell_wf {s : State} (hw : Store.wf s.store) (d : DriveIx) (h : Handle) :
    Store.wf (storeTell d h s).store := setFile_wf hw h (fileAt_wf hw h)

theorem storeFlush_wf {s : State} (hw : Store.wf s.store) (d : DriveIx) (h : Handle) :
    Store.wf (storeFlush d h s).store := setFile_wf hw h (fileAt_wf hw h)

theorem storeWrite_wf {s : State} (hw : Store.wf s.store) (d : DriveIx) (h : Handle) (blk : Block) :
    Store.wf (storeWrite d h blk s).store :=
  setFile_wf hw h ⟨writeCells_wf (fileAt_wf hw h).1 _ _ _, writeCells_lt (fileAt_wf hw h).2 _ _⟩

/-! ## Frames: what the stages of a session leave alone -/

theorem checksumVerdict_frame (c : Byte) (s : State) :
    (checksumVerdict c s).outsideSession = s.outsideSession := by
  unfold checksumVerdict; split <;> rfl

theorem headerChecks_frame (s : State) : (headerChecks s).outsideSession = s.outsideSession := by
  unfold headerChecks
  split
  · rfl
  · rw [checksumVerdict_frame]; rfl

theorem decodeHeaderBody_frame (s : State) : (decodeHeaderBody s).outsideSession = s.outsideSession := by
  unfold decodeHeaderBody
  split
  · rw [headerChecks_frame]; rfl
  · rfl

theorem decodeDataBody_frame (s : State) : (decodeDataBody s).outsideSession = s.outsideSession := by
  unfold decodeDataBody; rw [checksumVerdict_frame]; rfl

theorem scanWords_frame (n : Nat) (s : State) : (scanWords n s).outsideSession = s.outsideSession := by
  induction n generalizing s with
  | zero => rfl
  | succ n ih =>
    unfold scanWords
    split
    · rfl
    · rw [ih]; rfl

theorem huntWindow_frame (d : DriveIx) (s : State) : (huntWindow d s).outsideSession = s.outsideSession := by
  unfold huntWindow
  split_ifs
  · rfl
  · rfl
  · rfl
  · exact scanWords_frame _ _

theorem findSyncPoll_frame (d : DriveIx) (s : State) : (findSyncPoll d s).outsideSession = s.outsideSession :=
  (huntWindow_frame d (openData s)).trans rfl

theorem headerWindow_frame (s : State) : (headerWindow s).outsideSession = s.outsideSession := by
  unfold headerWindow
  split_ifs
  · rfl
  · exact decodeHeaderBody_frame _
  · rfl
  · rfl

theorem headerPoll_frame (s : State) : (headerPoll s).outsideSession = s.outsideSession :=
  (headerWindow_frame (openData s)).trans rfl

theorem dataWindow_frame (s : State) : (dataWindow s).outsideSession = s.outsideSession := by
  unfold dataWindow
  split_ifs
  · rfl
  · exact decodeDataBody_frame _
  · rfl
  · rfl

theorem dataPoll_frame (s : State) : (dataPoll s).outsideSession = s.outsideSession :=
  (dataWindow_frame (openData s)).trans rfl

/-- A session, whatever was received in it, ends deselected. -/
@[simp] theorem findSyncPoll_linkSelected (d : DriveIx) (s : State) : (findSyncPoll d s).linkSelected = false := rfl

@[simp] theorem headerPoll_linkSelected (s : State) : (headerPoll s).linkSelected = false := rfl

@[simp] theorem dataPoll_linkSelected (s : State) : (dataPoll s).linkSelected = false := rfl

@[simp] theorem readServe_linkSelected (d : DriveIx) (s : State) : (readServe d s).linkSelected = false := rfl

@[simp] theorem reportStatus_linkSelected (s : State) : (reportStatus s).linkSelected = false := rfl

/-- A report of status: two sends in a session of their own; every register but `state` and the LINK as before. -/
theorem reportStatus_eq (s : State) :
    reportStatus s =
      { s with
        ctl := .idle
        linkSelected := false
        trace := s.trace ++ [.linkSelect, .xfer Config.opDrvstat none, .xfer (statusReport s.df) none, .linkDeselect] } := by
  simp [reportStatus, linkDeselect, send, linkSelect]

end Sys2Proof.Machine
end

