-- ==== Sys2Proof/Laws/PerInstr.lean ====
section
/-! SUPPORT. Per instruction: an instruction that has an encoding has one of two bytes (R90); the operations of the
engine have none (R93). -/

namespace Sys2Proof.Laws.EncodedWidth

/-- Where the instruction has an encoding, it is two bytes. -/
def Statement (i : Instr) : Prop := ∀ bs, encode i = some bs → bs.length = 2

theorem rdtrk (sel : DriveIx) (count : BitVec 2) (t : Byte) : Statement (.rdtrk sel count t) := by
  intro bs h; cases h; rfl

theorem wrtrk (sel : DriveIx) (count : BitVec 2) (t : Byte) : Statement (.wrtrk sel count t) := by
  intro bs h; cases h; rfl

theorem idle (count : BitVec 2) : Statement (.idle count) := by
  intro bs h; cases h; rfl

theorem drvstat : Statement .drvstat := by
  intro bs h; cases h

theorem mount (d : DriveIx) (f : Handle) (n : Byte) (w : Bool) : Statement (.mount d f n w) := by
  intro bs h; cases h

theorem unmount (d : DriveIx) : Statement (.unmount d) := by
  intro bs h; cases h

theorem handleCmd (c1 c2 : Byte) : Statement (.handleCmd c1 c2) := by
  intro bs h; cases h

theorem setTrack (sel : DriveIx) (t : Byte) : Statement (.setTrack sel t) := by
  intro bs h; cases h

theorem readTrack (d : DriveIx) : Statement (.readTrack d) := by
  intro bs h; cases h

theorem liveState : Statement .liveState := by
  intro bs h; cases h

theorem encodeSector (s : BitVec 4) (t : Byte) (sync : Word16) : Statement (.encodeSector s t sync) := by
  intro bs h; cases h

theorem sendGap : Statement .sendGap := by
  intro bs h; cases h

theorem writeTrack (d : DriveIx) : Statement (.writeTrack d) := by
  intro bs h; cases h

theorem findSync (d : DriveIx) : Statement (.findSync d) := by
  intro bs h; cases h

theorem headerStage : Statement .headerStage := by
  intro bs h; cases h

theorem decodeHeader : Statement .decodeHeader := by
  intro bs h; cases h

theorem dataStage (d : DriveIx) : Statement (.dataStage d) := by
  intro bs h; cases h

theorem decodeData : Statement .decodeData := by
  intro bs h; cases h

theorem commit (d : DriveIx) : Statement (.commit d) := by
  intro bs h; cases h

end Sys2Proof.Laws.EncodedWidth
end

