-- ==== Sys2Proof/Laws/Stages.lean ====
section
/-! SUPPORT. What each stage of the reader and the writer can do, said once: its whole effect where one form covers it,
otherwise the fields it leaves and what its verdict means. -/

namespace Sys2Proof.Machine

/-! ## Fields of the live state as concatenations -/

theorem wordOf_eq_append (a b : Byte) : wordOf a b = a ++ b := by
  unfold wordOf
  apply BitVec.eq_of_toNat_eq
  rw [BitVec.toNat_append, BitVec.toNat_or]
  simp only [BitVec.toNat_shiftLeft, BitVec.toNat_setWidth]
  have ha := a.isLt
  have hb := b.isLt
  congr 1
  · rw [Nat.shiftLeft_eq, Nat.shiftLeft_eq]; omega
  · omega

theorem lengthOf_eq_append (a b : Byte) : lengthOf a b = a.extractLsb' 0 6 ++ b := by
  unfold lengthOf
  apply BitVec.eq_of_toNat_eq
  rw [BitVec.toNat_append, BitVec.toNat_or, BitVec.toNat_shiftLeft, BitVec.toNat_setWidth, BitVec.toNat_setWidth,
    BitVec.extractLsb'_toNat, BitVec.toNat_and]
  have ha := a.isLt
  have hb := b.isLt
  have low : a.toNat &&& 63 = a.toNat % 64 := Nat.and_two_pow_sub_one_eq_mod a.toNat 6
  rw [show BitVec.toNat (63 : BitVec 8) = 63 from rfl, low]
  congr 1
  · simp only [Nat.shiftLeft_eq, Nat.shiftRight_zero]; omega
  · omega

/-! ## Operands -/

/-- The clamp is the minimum of the track and the last track (R231). -/
theorem clampTrack_eq_min (t : Byte) {n : Byte} (hn : n ≠ 0) :
    clampTrack t n = BitVec.ofNat 8 (min t.toNat (n.toNat - 1)) := by
  have hpos : n.toNat ≠ 0 := fun h => hn (BitVec.eq_of_toNat_eq h)
  unfold clampTrack
  rw [if_neg hn]
  split
  · next h => rw [Nat.min_eq_left (by have := BitVec.lt_def.1 h; omega)]; simp
  · next h =>
    have hge : ¬t.toNat < n.toNat := fun e => h (BitVec.lt_def.2 e)
    rw [Nat.min_eq_right (by omega)]
    apply BitVec.eq_of_toNat_eq
    rw [BitVec.toNat_ofNat, BitVec.toNat_sub]
    have := n.isLt
    simp; omega

/-- A clamped track lies on the image. -/
theorem clampTrack_lt (t : Byte) {n : Byte} (hn : n ≠ 0) : clampTrack t n < n := by
  have hpos : n.toNat ≠ 0 := fun h => hn (BitVec.eq_of_toNat_eq h)
  rw [clampTrack_eq_min t hn, BitVec.lt_def, BitVec.toNat_ofNat]
  have := n.isLt
  omega

/-- A present slot with a file has that file as its image. -/
theorem image?_eq_some {s : State} {d : DriveIx} {h : Handle} (hp : (s.drive d).present = true)
    (hf : (s.drive d).file = some h) : s.image? d = some h := by
  simp [State.image?, hp, hf]

/-- What two states that agree outside a session share. -/
theorem outsideSession_fields {s t : State} (h : t.outsideSession = s.outsideSession) :
    t.df = s.df ∧ t.ctl = s.ctl ∧ t.sel = s.sel ∧ t.sector = s.sector ∧ t.led = s.led ∧ t.store = s.store ∧
      t.off = s.off ∧ t.events = s.events ∧ t.drives = s.drives ∧ t.storeIn = s.storeIn := by
  simp only [State.outsideSession, State.mk.injEq] at h
  simp_all

/-! ## Lanes -/

theorem foldLanes_append (q : Quad Byte) (n : Nat) (l m : List Byte) :
    foldLanes q n (l ++ m) = foldLanes (foldLanes q n l) (n + l.length) m := by
  induction l generalizing q n with
  | nil => simp [foldLanes]
  | cons x l ih =>
    simp only [List.cons_append, foldLanes, ih, List.length_cons]
    rw [show n + 1 + l.length = n + (l.length + 1) by omega]

theorem foldLanes_add_four (q : Quad Byte) (n : Nat) (l : List Byte) : foldLanes q (n + 4) l = foldLanes q n l := by
  induction l generalizing q n with
  | nil => rfl
  | cons x l ih =>
    have e : BitVec.ofNat 2 (n + 4) = BitVec.ofNat 2 n := by apply BitVec.eq_of_toNat_eq; simp
    simp only [foldLanes, e]
    rw [show n + 4 + 1 = n + 1 + 4 by omega, ih]

/-! ## The session -/

/-- Opening a data session: select and six exchanges into the live-state registers. -/
theorem openData_eq (s : State) :
    openData s = { s with
      linkSelected := true
      lsStatus := byteAt (received 6 s) 0
      lsTrack := byteAt (received 6 s) 1
      lsSync := wordOf (byteAt (received 6 s) 2) (byteAt (received 6 s) 3)
      lsLen := lengthOf (byteAt (received 6 s) 4) (byteAt (received 6 s) 5)
      lsActive := activeOf (byteAt (received 6 s) 4)
      linkIn := s.linkIn.drop 6, draws := s.draws + 6
      trace := s.trace ++ [.linkSelect] ++ recvEvents (received 6 s) } := by
  have e : received 6 (linkSelect s) = received 6 s := rfl
  simp [openData, readLiveState, e, recv, recvEvents, Config.linkIdleTx]

@[simp] theorem openData_trace (s : State) :
    (openData s).trace = s.trace ++ [.linkSelect] ++ recvEvents (received 6 s) := by rw [openData_eq]

/-! ## The reader -/

/-- RD_ENTRY in one form: the record written, then the seek to the sector it names. -/
theorem readEntry_eq (d : DriveIx) (h : Handle) (s : State) :
    readEntry d h s =
      let sector : BitVec 4 := if (s.drive d).cacheValid then (s.drive d).sectorOffset else 0
      { storeSeek d h (byteOffset (s.drive d).track.toNat sector.toNat) s with
        df := s.df.set d { s.drive d with trackPrev := some (s.drive d).track, sectorOffset := sector }
        sector := sector, ctl := .rdLoop } := by
  by_cases h' : (s.drive d).cacheValid = true
  · have e : (s.drive d).trackPrev = some (s.drive d).track := by simpa [DriveState.cacheValid] using h'
    have e' : s.df.set d { s.drive d with trackPrev := some (s.drive d).track } = s.df := by
      rw [← e]; exact Quad.set_get s.df d
    simp only [readEntry, h', if_true, e']
    simp
  · simp only [readEntry, h']
    rfl

/-- The decision of RD_LOOP in one form. -/
theorem readServe_eq (d : DriveIx) (s : State) :
    readServe d s = { s with
      linkSelected := false, ctl := .rdNext
      trace := s.trace ++ sendEvents (if wantsTrack d s then servedBytes s else []) ++ [.linkDeselect] } := by
  unfold readServe; split <;> simp [linkDeselect, send, sendEvents]

/-! ## Checksum comparison and decoding -/

/-- A comparison writes `Error` and the verdict, nothing else. -/
theorem checksumVerdict_eq (c : Byte) (s : State) :
    checksumVerdict c s = { s with
      error := if s.cks = s.lane then s.error else c
      ret := some (decide (s.cks = s.lane)) } := by
  unfold checksumVerdict
  by_cases h : s.cks = s.lane
  · rw [if_pos h, if_pos h, decide_eq_true h]
  · rw [if_neg h, if_neg h, decide_eq_false h]; rfl

/-- A header that passes leaves `Error`, and names a sector 0..10. -/
theorem decodeHeaderBody_true {s : State} (h : (decodeHeaderBody s).ret = some true) :
    (decodeHeaderBody s).error = s.error ∧ (decodeHeaderBody s).hdrSector ≤ 10 := by
  unfold decodeHeaderBody headerChecks at h ⊢
  by_cases hs : syncNext s = true
  · rw [if_pos hs] at h ⊢
    rcases hf : headerFieldError (receiveInfo (recv 2 s)).b with _ | c
    · simp only [hf, checksumVerdict_eq] at h ⊢
      have hv := of_decide_eq_true (Option.some.inj h)
      rw [if_pos hv]
      refine ⟨by simp, ?_⟩
      unfold headerFieldError at hf
      split_ifs at hf with h1 h2 h3 h4
      simp only [receiveChecksum_hdrSector, receiveLabel_hdrSector, takeHeader_hdrSector]
      exact BitVec.le_def.2 (by simpa using h3)
    · simp only [hf] at h; simp at h
  · rw [if_neg hs] at h; simp at h

theorem decodeHeaderBody_ret (s : State) : (decodeHeaderBody s).ret ≠ none := by
  unfold decodeHeaderBody headerChecks
  split
  · split
    · simp
    · simp [checksumVerdict_eq]
  · simp

/-- DECODE_HEADER leaves what is not the codec's. -/
theorem decodeHeaderBody_keeps (s : State) :
    (decodeHeaderBody s).buf = s.buf ∧ (decodeHeaderBody s).found = s.found ∧
      (decodeHeaderBody s).seekDone = s.seekDone ∧ (decodeHeaderBody s).linkSelected = s.linkSelected ∧
      (decodeHeaderBody s).lsStatus = s.lsStatus ∧ (decodeHeaderBody s).lsTrack = s.lsTrack ∧
      (decodeHeaderBody s).lsSync = s.lsSync ∧ (decodeHeaderBody s).lsLen = s.lsLen ∧
      (decodeHeaderBody s).lsActive = s.lsActive := by
  unfold decodeHeaderBody headerChecks
  split
  · split
    · simp
    · simp [checksumVerdict_eq]
  · simp

/-- DECODE_DATA leaves what is not the codec's, and `Error` where it passes. -/
theorem decodeDataBody_keeps (s : State) :
    (decodeDataBody s).hdrTrack = s.hdrTrack ∧ (decodeDataBody s).hdrSector = s.hdrSector ∧
      (decodeDataBody s).found = s.found ∧ (decodeDataBody s).seekDone = s.seekDone ∧
      (decodeDataBody s).linkSelected = s.linkSelected ∧ (decodeDataBody s).lsStatus = s.lsStatus ∧
      (decodeDataBody s).lsTrack = s.lsTrack ∧ (decodeDataBody s).lsSync = s.lsSync ∧
      (decodeDataBody s).lsLen = s.lsLen ∧ (decodeDataBody s).lsActive = s.lsActive := by
  simp [decodeDataBody, checksumVerdict_eq]

theorem decodeDataBody_true {s : State} (h : (decodeDataBody s).ret = some true) :
    (decodeDataBody s).error = s.error := by
  simp only [decodeDataBody, checksumVerdict_eq] at h ⊢
  rw [if_pos (of_decide_eq_true (Option.some.inj h))]; simp

theorem decodeDataBody_ret (s : State) : (decodeDataBody s).ret ≠ none := by
  simp [decodeDataBody, checksumVerdict_eq]

/-! ## The writer's stages -/

/-- The window never touches `Error` or the stage marks. -/
theorem scanWords_keeps (n : Nat) (s : State) :
    (scanWords n s).error = s.error ∧ (scanWords n s).seekDone = s.seekDone ∧
      (scanWords n s).hdrTrack = s.hdrTrack ∧ (scanWords n s).hdrSector = s.hdrSector ∧ (scanWords n s).buf = s.buf := by
  induction n generalizing s with
  | zero => simp [scanWords]
  | succ n ih =>
    unfold scanWords
    split
    · simp
    · simpa using ih (recv 2 s)

/-- The window in full: it takes words up to and with the first sync, or all n of them. -/
theorem scanWords_spec (n : Nat) (s : State) :
    let isSync := fun k =>
      (received (2 * n) s).getD (2 * k) 0 = 0x44 ∧ (received (2 * n) s).getD (2 * k + 1) 0 = 0x89
    (∀ k, k < n → isSync k → (∀ j, j < k → ¬isSync j) →
      scanWords n s = { recv (2 * k + 2) s with ret := some true, found := true }) ∧
    ((∀ j, j < n → ¬isSync j) → scanWords n s = { recv (2 * n) s with ret := none }) := by
  induction n generalizing s with
  | zero =>
    refine ⟨fun k h => absurd h (by omega), fun _ => ?_⟩
    simp [scanWords, recv, received, answers]
  | succ n ih =>
    have hw : wordBytes Config.syncCanon = [0x44, 0x89] := by decide
    have hadd : received (2 * (n + 1)) s = received 2 s ++ received (2 * n) (recv 2 s) := by
      rw [show 2 * (n + 1) = 2 + 2 * n by omega, received_add]
    match hy : received 2 s, received_length 2 s with
    | [a, b], _ =>
      rw [hy] at hadd
      have hs : syncNext s = true ↔ (a = 0x44 ∧ b = 0x89) := by simp [syncNext, hy, hw]
      have g0 : ∀ k, (received (2 * (n + 1)) s).getD (2 * (k + 1)) 0 =
          (received (2 * n) (recv 2 s)).getD (2 * k) 0 := by
        intro k
        rw [hadd, show 2 * (k + 1) = 2 * k + 1 + 1 by omega]
        simp [-List.getD_eq_getElem?_getD, List.getD_cons_succ]
      have g1 : ∀ k, (received (2 * (n + 1)) s).getD (2 * (k + 1) + 1) 0 =
          (received (2 * n) (recv 2 s)).getD (2 * k + 1) 0 := by
        intro k
        rw [hadd, show 2 * (k + 1) + 1 = 2 * k + 1 + 1 + 1 by omega]
        simp [-List.getD_eq_getElem?_getD, List.getD_cons_succ]
      have z0 : (received (2 * (n + 1)) s).getD (2 * 0) 0 = a := by rw [hadd]; rfl
      have z1 : (received (2 * (n + 1)) s).getD (2 * 0 + 1) 0 = b := by rw [hadd]; rfl
      dsimp only at ih ⊢
      refine ⟨fun k hk h1 h2 => ?_, fun h => ?_⟩
      · cases k with
        | zero =>
          rw [z0, z1] at h1
          simp only [scanWords]; rw [if_pos (hs.2 h1)]
        | succ k =>
          have h0 := h2 0 (by omega)
          rw [z0, z1] at h0
          simp only [scanWords]; rw [if_neg (fun h => h0 (hs.1 h))]
          rw [(ih (recv 2 s)).1 k (by omega) (by rw [← g0, ← g1]; exact h1)
            (fun j hj => by rw [← g0, ← g1]; exact h2 (j + 1) (by omega)), recv_recv]
          rw [show 2 + (2 * k + 2) = 2 * (k + 1) + 2 by omega]
      · have h0 := h 0 (by omega)
        rw [z0, z1] at h0
        simp only [scanWords]; rw [if_neg (fun h => h0 (hs.1 h))]
        rw [(ih (recv 2 s)).2 (fun j hj => by rw [← g0, ← g1]; exact h (j + 1) (by omega)), recv_recv,
          show 2 + 2 * n = 2 * (n + 1) by omega]

theorem findSyncPoll_keeps (d : DriveIx) (s : State) :
    (findSyncPoll d s).error = s.error ∧ (findSyncPoll d s).seekDone = s.seekDone ∧
      (findSyncPoll d s).hdrTrack = s.hdrTrack ∧ (findSyncPoll d s).hdrSector = s.hdrSector ∧
      (findSyncPoll d s).buf = s.buf := by
  have h := scanWords_keeps (openData s).lsLen.toNat (openData s)
  unfold findSyncPoll huntWindow
  split_ifs
  · simp
  · simp
  · simp
  · simpa using h

theorem headerPoll_keeps (s : State) :
    (headerPoll s).seekDone = s.seekDone ∧ (headerPoll s).buf = s.buf ∧ (headerPoll s).found = s.found := by
  have h := decodeHeaderBody_keeps (openData s)
  unfold headerPoll headerWindow
  split_ifs
  · simp
  · simp [h]
  · simp
  · simp

/-- HEADER_STAGE passes only with a header that named a sector 0..10, and touches `Error` only to raise. -/
theorem headerPoll_true {s : State} (h : (headerPoll s).ret = some true) :
    (headerPoll s).error = s.error ∧ (headerPoll s).hdrSector ≤ 10 := by
  unfold headerPoll headerWindow at h ⊢
  split_ifs at h ⊢
  · simp at h
  · simpa using decodeHeaderBody_true (s := openData s) (by simpa using h)
  · simp at h
  · simp at h

theorem headerPoll_none {s : State} (h : (headerPoll s).ret = none) : (headerPoll s).error = s.error := by
  unfold headerPoll headerWindow at h ⊢
  split_ifs at h ⊢
  · simp
  · exact absurd (by simpa using h) (decodeHeaderBody_ret (openData s))
  · simp at h
  · simp

theorem dataPoll_keeps (s : State) :
    (dataPoll s).hdrTrack = s.hdrTrack ∧ (dataPoll s).hdrSector = s.hdrSector ∧ (dataPoll s).found = s.found := by
  have h := decodeDataBody_keeps (openData s)
  unfold dataPoll dataWindow
  split_ifs
  · simp
  · simp [h]
  · simp
  · simp

/-- DATA_STAGE's session passes without touching `Error`, polls again with the seek mark kept, and clears the mark
whenever it is over. -/
theorem dataPoll_true {s : State} (h : (dataPoll s).ret = some true) : (dataPoll s).error = s.error := by
  unfold dataPoll dataWindow at h ⊢
  split_ifs at h ⊢
  · simp at h
  · simpa using decodeDataBody_true (s := openData s) (by simpa using h)
  · simp at h
  · simp at h

theorem dataPoll_none {s : State} (h : (dataPoll s).ret = none) :
    (dataPoll s).error = s.error ∧ (dataPoll s).seekDone = s.seekDone := by
  unfold dataPoll dataWindow at h ⊢
  split_ifs at h ⊢
  · simp at h
  · exact absurd (by simpa using h) (decodeDataBody_ret (openData s))
  · simp at h
  · simp

theorem dataPoll_some {s : State} {v : Bool} (h : (dataPoll s).ret = some v) : (dataPoll s).seekDone = false := by
  unfold dataPoll dataWindow at h ⊢
  split_ifs at h ⊢
  · simp
  · simp
  · simp
  · simp at h

/-- A landed seek leaves the cursor at the sought sector, inside the file. -/
theorem dataSought_landed {d : DriveIx} {h : Handle} {s : State} (hl : seekLanded d h s = true) :
    (fileAt (storeTell d h (dataSought d h s)).store h).cursor = targetOffset d s ∧
      targetOffset d s ≤ (fileAt (storeTell d h (dataSought d h s)).store h).size := by
  simp only [seekLanded, Bool.and_eq_true, decide_eq_true_eq] at hl
  obtain ⟨hk, ht⟩ := hl
  have hs : (fileAt (dataSought d h s).store h).size = (fileAt s.store h).size := by
    simp only [dataSought]; rw [fileAt_storeSeek, if_pos rfl]
  have hle : targetOffset d s ≤ (fileAt s.store h).size := by
    simp only [seekOk, Bool.and_eq_true, decide_eq_true_eq] at hk; exact hk.2
  unfold tellPos at ht
  split_ifs at ht with ha
  rw [fileAt_storeTell, if_pos rfl]
  simp only [ha, if_true]
  exact ⟨Option.some.inj ht, by rw [hs]; exact hle⟩

/-- COMMIT's write in one form. -/
theorem commitWrite_eq (d : DriveIx) (h : Handle) (s : State) :
    commitWrite d h s = { storeWrite d h s.buf s with
      error := if accessOk h s then s.error else Config.errWrite
      ret := if accessOk h s then s.ret else some false } := by
  unfold commitWrite
  split <;> rfl

end Sys2Proof.Machine
end

