-- ==== Sys2Proof/Tests/Slice0.lean ====
section
/-! SUPPORT. Our own tests: ill-formed terms refused, command words decoded, one step per instruction on a small state
with the results the spec's vectors give, and for every obligation with hypotheses a state that meets them. -/

namespace Sys2Proof.Tests

open Sys2Proof.Machine

/-! ## Well-formedness: the two checks refuse -/

theorem test_mount_without_tracks_ill_formed : (Instr.mount 0 7 0 true).wf = false := by decide

theorem test_sector_11_ill_formed : (Instr.encodeSector 11 0 0x4489).wf = false := by decide

theorem test_limits_well_formed :
    (Instr.mount 3 7 1 false).wf = true ∧ (Instr.encodeSector 10 255 0).wf = true := by decide

/-! ## Decoding: words written out from R91 (bit 0 RD, bit 1 WR, 5:4 COUNT, 7:6 SEL; c2 TRACK), as V41 lists them -/

/-- 0b01_00_00_01, 0b00000101: SEL 1, RD, track 5. -/
theorem test_decode_rdtrk : decode [0b01000001, 0b00000101] = .ok (.rdtrk 1 0 5) := by decide

/-- 0b11_11_00_10, 0x9F: SEL 3, COUNT 3, WR, track 159. -/
theorem test_decode_wrtrk : decode [0b11110010, 0b10011111] = .ok (.wrtrk 3 3 159) := by decide

/-- 0b00_11_00_00: COUNT 3, no flag. -/
theorem test_decode_idle : decode [0b00110000, 0b00000111] = .ok (.idle 3) := by decide

/-- Both flags: read wins; bits 3:2 are ignored. -/
theorem test_decode_both_flags_and_reserved : decode [0b00001111, 0] = .ok (.rdtrk 0 0 0) := by decide

theorem test_decode_wrong_length :
    decode [] = .error (.wrongLength 0) ∧ decode [1] = .error (.wrongLength 1) ∧
      decode [1, 2, 3] = .error (.wrongLength 3) := by decide

/-- The table word has c1 in bits 15:8; a row longer than a command is none. -/
theorem test_table_words :
    decodeTableWord 16 0x4105 = some (.rdtrk 1 0 5) ∧ decodeTableWord 16 0xF29F = some (.wrtrk 3 3 159) ∧
      decodeTableWord 16 0x3007 = some (.idle 3) ∧ decodeTableWord 48 0x010044891900 = none := by decide

theorem test_encode :
    encode (.rdtrk 1 0 5) = some [0x41, 0x05] ∧ encode (.wrtrk 3 3 159) = some [0xF2, 0x9F] ∧
      encode (.idle 3) = some [0x30, 0x00] := by decide

/-! ## Small states -/

/-- A slot as MOUNT leaves it (R236). -/
def slot (tracks : Byte) (writable : Bool) : DriveState := mountedDrive 7 tracks writable

/-- Drive 0 mounted with `tracks` tracks, nothing running. -/
def idleState (tracks : Byte) (writable : Bool) : State :=
  { State.reset with df := { (State.reset.df) with q0 := slot tracks writable } }

/-- The same, inside an operation on drive 0, with what the controller will answer. -/
def running (c : Ctl) (linkIn : List Byte) : State :=
  { idleState 80 true with ctl := c, led := true, linkIn := linkIn }

/-- A session is open and the controller will answer these bytes. -/
def session (linkIn : List Byte) : State := { State.reset with linkSelected := true, linkIn := linkIn }

/-- The step gives a next state with this property. -/
def nextHolds (r : Result) (p : State → Bool) : Bool :=
  match r with
  | .next t => p t
  | .fault _ => false
  | .refused _ => false

/-- What the Block Store answers when all goes well. -/
def good : StoreAnswer := { ok := true, cursor := 0, block := Block.zero }

/-! ## One step per instruction -/

/-- R232, V23: LED on, track 200 clamped to 79. -/
theorem test_rdtrk : nextHolds (exec (.rdtrk 0 2 200) (idleState 80 true)) fun t =>
    t.led && t.ctl == .rdEntry && (t.drive 0).track == 79 && t.drives == 2 && t.trace == [.ledOn] := by decide

/-- U1: no image, no step. -/
theorem test_rdtrk_refused_when_empty : step (State.reset.withFetchWord 16 0x0100) = .refused .noImage := rfl

/-- R233 by way of the command word: F2 is drive 3, 32 is drive 0 with count 3. -/
theorem test_wrtrk : nextHolds (step ((idleState 80 true).withFetchWord 16 0x3203)) fun t =>
    t.led && t.ctl == .wrEntry && (t.drive 0).track == 3 && t.drives == 3 && t.events == [] := by decide

/-- R234, V43. -/
theorem test_idle : nextHolds (step (State.reset.withFetchWord 16 0x3007)) fun t =>
    t.drives == 3 && t.trace == [] && t.df == State.reset.df && t.ctl == .idle := by decide

/-- R235, V40: statuses 11 01 00 11 send 10 9B. -/
theorem test_drvstat : nextHolds
    (exec .drvstat { State.reset with df := ⟨slot 1 true, slot 1 false, DriveState.powerOn, slot 1 true⟩ }) fun t =>
    t.trace == [.linkSelect, .xfer 0x10 none, .xfer 0x9B none, .linkDeselect] && t.ctl == .idle := by decide

/-- R236, V40: MOUNT 0 rw sends 10 11. -/
theorem test_mount : nextHolds (exec (.mount 0 7 80 true) State.reset) fun t =>
    t.trace == [.linkSelect, .xfer 0x10 none, .xfer 0x11 none, .linkDeselect] && t.drive 0 == slot 80 true &&
      t.drive 1 == DriveState.powerOn := by decide

/-- R237: the slot is empty and the report shows it. -/
theorem test_unmount : nextHolds (exec (.unmount 0) (idleState 80 true)) fun t =>
    t.trace == [.linkSelect, .xfer 0x10 none, .xfer 0x00 none, .linkDeselect] && (t.drive 0).status == 0 &&
      (t.drive 0).file == none && (t.drive 0).trackPrev == none := by decide

/-- R230, V41: 03 runs the read. -/
theorem test_handle_cmd : nextHolds (exec (.handleCmd 0x03 0x01) (idleState 80 true)) fun t =>
    t.ctl == .rdEntry && (t.drive 0).track == 1 := by decide

/-- R231, V44: tracks 80: 80 gives 79, 79 stays. -/
theorem test_set_track : nextHolds (exec (.setTrack 0 80) (idleState 80 true)) (fun t => (t.drive 0).track == 79) ∧
    nextHolds (exec (.setTrack 0 79) (idleState 80 true)) (fun t => (t.drive 0).track == 79) := by decide

/-- R170: a resume on the same track seeks the cached sector 9 (V22). -/
theorem test_read_track_entry : nextHolds
    (exec (.readTrack 0)
      { running .rdEntry [] with
        storeIn := [good]
        df := { (running .rdEntry []).df with q0 := { slot 80 true with trackPrev := some 0, sectorOffset := 9 } } }) fun t =>
    t.trace == [.storeSeek 0 4608 true] && t.sector == 9 && t.ctl == .rdLoop && t.storeIn == [] := by decide

/-- R175, V22: after sector 10 the reader wraps and seeks the track start. -/
theorem test_read_track_wraps : nextHolds
    (exec (.readTrack 0) { running .rdNext [] with storeIn := [good], sector := 10, lsStatus := 1 }) fun t =>
    t.trace == [.storeSeek 0 0 true] && t.sector == 0 && t.ctl == .rdLoop := by decide

/-- R95, R96: 82 1D is length 541, active. -/
theorem test_live_state : nextHolds (exec .liveState (session [0x02, 0x05, 0x44, 0x89, 0x82, 0x1D, 0x77])) fun t =>
    t.lsStatus == 2 && t.lsTrack == 5 && t.lsSync == 0x4489 && t.lsLen == 541 && t.lsActive && t.linkIn == [0x77] := by
  decide

/-- R133, V3: 1088 sends; the header bytes of track 159, sector 10. -/
theorem test_encode_sector_header :
    (sectorHeader Block.zero 10 159 0x4489).take 16 =
      [0xAA, 0xAA, 0xAA, 0xAA, 0x44, 0x89, 0x44, 0x89, 0x55, 0x45, 0x05, 0x00, 0x55, 0x15, 0x00, 0x01] := by
  decide +kernel

/-- V1: bytes 48 to 63 of sector 0, track 0, all zero. -/
theorem test_encode_sector_checksums :
    (sectorHeader Block.zero 0 0 0x4489).drop 48 =
      [0xAA, 0xAA, 0xAA, 0xAA, 0xAA, 0xAA, 0xAA, 0xAE, 0xAA, 0xAA, 0xAA, 0xAA, 0xAA, 0xAA, 0xAA, 0xAA] := by
  decide +kernel

/-- R136. -/
theorem test_send_gap : nextHolds (exec .sendGap (session [])) fun t =>
    t.trace.length == 700 && t.trace.getLast? == some (.xfer 0xAA none) := by decide +kernel

/-- A header block: sync, info odd and even, 32 label bytes, checksum (R137). -/
def header (info : List Byte) (label : Byte) (cks : List Byte) : List Byte :=
  [0x44, 0x89] ++ info ++ [label] ++ List.replicate 31 0xAA ++ [0xAA, 0xAA, 0xAA, 0xAA] ++ cks

/-- V8: a good header of track 0, sector 3; V18: a label byte changed is error 26. -/
theorem test_decode_header :
    nextHolds (exec .decodeHeader
      (session (header [0x55, 0x00, 0x01, 0x04, 0x55, 0x00, 0x01, 0x00] 0xAA [0xAA, 0xAA, 0xAA, 0xAE]))) (fun t =>
        t.ret == some true && t.hdrTrack == 0 && t.hdrSector == 3 && t.error == 0 && t.linkIn == []) ∧
    nextHolds (exec .decodeHeader
      (session (header [0x55, 0x00, 0x01, 0x04, 0x55, 0x00, 0x01, 0x00] 0xAB [0xAA, 0xAA, 0xAA, 0xAE]))) (fun t =>
        t.ret == some false && t.error == 26 && t.linkIn == []) := by decide +kernel

/-- V11 to V17: codes 21 to 25, and the first failure decides. -/
theorem test_decode_header_errors :
    nextHolds (exec .decodeHeader (session [0x44, 0x88, 1])) (fun t => t.error == 21 && t.linkIn == [1]) ∧
    nextHolds (exec .decodeHeader (session [0x44, 0x89, 0x55, 0x50, 0x01, 0x04, 0x55, 0x00, 0x01, 0x00, 1]))
      (fun t => t.error == 23 && t.linkIn == [1] && t.hdrTrack == 0) ∧
    nextHolds (exec .decodeHeader (session [0x44, 0x89, 0x55, 0x00, 0x05, 0x04, 0x55, 0x00, 0x01, 0x00]))
      (fun t => t.error == 24) ∧
    nextHolds (exec .decodeHeader (session [0x44, 0x89, 0x55, 0x00, 0x01, 0x00, 0x55, 0x00, 0x01, 0x00]))
      (fun t => t.error == 25) ∧
    nextHolds (exec .decodeHeader (session [0x44, 0x89, 0x54, 0x50, 0x05, 0x00, 0x54, 0x00, 0x01, 0x00]))
      (fun t => t.error == 22) := by decide +kernel

/-- V9 with one data bit set in the first odd-pass byte: buf[0] = 02, error 29 (V21's change). -/
theorem test_decode_data : nextHolds
    (exec .decodeData (session (List.replicate 8 0xAA ++ [0xAB] ++ List.replicate 1023 0xAA))) fun t =>
    t.error == 29 && t.buf.bytes.take 2 == [2, 0] && t.linkIn == [] := by decide +kernel

/-- R190. -/
theorem test_write_track_entry : nextHolds
    (exec (.writeTrack 0)
      { running .wrEntry [] with df := { (running .wrEntry []).df with q0 := { slot 80 true with trackPrev := some 0 } } })
    fun t => (t.drive 0).trackPrev == none && t.ctl == .seekSync && t.trace == [] := by decide

/-- V38: a good header of another track is error 27, reported in the next step. -/
theorem test_write_track_other_track : nextHolds
    (exec (.writeTrack 0)
      (running .header ([0x02, 0x00, 0x44, 0x89, 0x82, 0x1D] ++
        header [0x55, 0x00, 0x01, 0x04, 0x55, 0x01, 0x01, 0x00] 0xAA [0xAA, 0xAB, 0xAA, 0xAE]))) fun t =>
    t.error == 27 && t.ctl == .wrReport && t.hdrTrack == 1 && t.linkIn == [] := by decide +kernel

/-- V39i, first session: a misaligned sync is not found and the hunt polls again. -/
theorem test_find_sync_misaligned : nextHolds
    (exec (.findSync 0) (running .seekSync [0x02, 0x00, 0x44, 0x89, 0x80, 0x02, 0xAA, 0x44, 0x89, 0xAA])) fun t =>
    t.ret == none && t.linkIn == [] && t.trace.length == 12 && t.linkSelected == false := by decide

/-- S1: the third word is the sync. -/
theorem test_find_sync_found : nextHolds
    (exec (.findSync 0)
      (running .seekSync [0x02, 0x00, 0x44, 0x89, 0x80, 0x03, 0xAA, 0xAA, 0xAA, 0xAA, 0x44, 0x89, 0x11])) fun t =>
    t.ret == some true && t.found && t.linkIn == [0x11] := by decide

/-- V31 and V31b: 24 words and no longer active is error 20, still active polls. -/
theorem test_header_stage :
    nextHolds (exec .headerStage (running .header [0x02, 0x00, 0x44, 0x89, 0x00, 0x18]))
      (fun t => t.error == 20 && t.ret == some false) ∧
    nextHolds (exec .headerStage (running .header [0x02, 0x00, 0x44, 0x89, 0x80, 0x18]))
      (fun t => t.error == 0 && t.ret == none) := by decide

/-- V39: seek and tell at 1536, then 515 words and no longer active: error 28. -/
theorem test_data_stage : nextHolds
    (exec (.dataStage 0)
      { running .data [0x02, 0x00, 0x44, 0x89, 0x02, 0x03] with hdrSector := 3, storeIn := [good, good] }) fun t =>
    t.error == 28 && t.ret == some false && t.off == 1536 &&
      t.trace.take 2 == [.storeSeek 0 1536 true, .storeTell 0 (some 1536)] := by decide

/-- R194, V30: the buffer goes to the cursor. -/
theorem test_commit : nextHolds
    (exec (.commit 0)
      { running .commit [] with
        storeIn := [good], buf := Block.ofList (List.replicate 512 0x5A)
        store := setFile [] 7 { StoreFile.blank with cursor := 1536 } }) fun t =>
    imageByte t 7 1535 == 0 && imageByte t 7 1536 == 0x5A && imageByte t 7 2047 == 0x5A && imageByte t 7 2048 == 0 &&
      (fileAt t.store 7).cursor == 2048 && t.trace == [.storeWrite 0 1536 true] := by decide +kernel

/-- P3: a protected slot is error 30, nothing written. -/
theorem test_commit_protected : nextHolds (exec (.commit 0) (idleState 80 false)) fun t =>
    t.error == 30 && t.store == [] && t.trace == [] := by decide

/-- R195, R196: the report clears `Error`; the exit flushes and the LED goes off. -/
theorem test_report_and_exit :
    nextHolds (step { running .wrReport [] with error := 27 }) (fun t => t.error == 0 && t.ctl == .seekSync) ∧
    nextHolds (step { running .wrExit [] with storeIn := [good] }) (fun t =>
      t.trace == [.storeFlush 0 true, .ledOff] && t.led == false && t.ctl == .idle) := by decide

/-! ## Witnesses: states and operands that meet the hypotheses of each obligation, a clause at a time -/

theorem witness_CommandBytesDecode :
    (0x01#8).getLsbD 0 = true ∧ ((0xFE#8).getLsbD 0 = false ∧ (0xFE#8).getLsbD 1 = true) ∧
      ((0xFC#8).getLsbD 0 = false ∧ (0xFC#8).getLsbD 1 = false) := by decide

theorem witness_DecodeEncodeAgree :
    encode (.rdtrk 3 3 255) = some [0xF1, 0xFF] ∧ encode (.wrtrk 0 0 0) = some [0x02, 0x00] ∧
      encode (.idle 0) = some [0x00, 0x00] := by decide

theorem witness_EncodeDecodeClearsIgnoredBits :
    decode [0x0F, 0xFF] = .ok (.rdtrk 0 0 255) ∧ decode [0x0E, 0] = .ok (.wrtrk 0 0 0) ∧
      decode [0xCC, 0xFF] = .ok (.idle 0) := by decide

/-- Drive 0 mounted with these events waiting. -/
def waiting (events : List InEvent) : State := { idleState 80 true with events := events }

theorem witness_StepRunsDecodedCommand :
    (waiting [.command 0x01 0x05]).ctl = .idle ∧
      (waiting [.command 0x01 0x05]).events = .command 0x01 0x05 :: [] ∧
      decode [0x01, 0x05] = .ok (.rdtrk 0 0 5) ∧ (Instr.rdtrk 0 0 5).wf = true := by decide

theorem witness_StepRunsHostEvent :
    (waiting [.mount 3 9 255 true]).ctl = .idle ∧ (waiting [.mount 3 9 255 true]).events = [.mount 3 9 255 true] ∧
      (waiting [.unmount 0]).ctl = .idle ∧ (waiting [.unmount 0]).events = [.unmount 0] := by decide

theorem witness_StepInsideOperation :
    ((running .rdEntry []).ctl.reading = true ∧ ∃ t, exec (.readTrack (running .rdEntry []).sel) (running .rdEntry []) = .next t) ∧
    ((running .wrEntry []).ctl.writing = true ∧ ∃ t, exec (.writeTrack (running .wrEntry []).sel) (running .wrEntry []) = .next t) ∧
    (running .stat []).ctl = .stat ∧ State.reset.ctl = .idle ∧ State.reset.events = [] :=
  ⟨⟨rfl, _, rfl⟩, ⟨rfl, _, rfl⟩, rfl, rfl, rfl⟩

/-- An operation runs, the step answers, a mount has tracks. -/
theorem witness_NoEventOutsideIdle :
    (running .rdNext []).ctl ≠ .idle ∧ (∃ t, step (running .rdNext []) = .next t) ∧ (1 : Byte) ≠ 0 :=
  ⟨by decide, ⟨_, rfl⟩, by decide⟩

/-- Track counts 1 and 255 are the ends of R236's range. -/
theorem witness_RdtrkOpensRead :
    (idleState 1 true).ctl = .idle ∧ (idleState 1 true).linkSelected = false ∧
      ((idleState 1 true).drive 0).status.getLsbD 0 = true ∧ ((idleState 1 true).drive 0).tracks ≠ 0 ∧
      ((idleState 255 false).drive 0).status.getLsbD 0 = true ∧ ((idleState 255 false).drive 0).tracks ≠ 0 := by decide

theorem witness_WrtrkOpensWrite :
    (idleState 255 true).ctl = .idle ∧ (idleState 255 true).linkSelected = false ∧
      ((idleState 255 true).drive 0).status.getLsbD 0 = true ∧ ((idleState 255 true).drive 0).tracks ≠ 0 := by decide

theorem witness_SetTrackClamps :
    ((idleState 1 true).drive 0).tracks ≠ 0 ∧ ((idleState 255 true).drive 0).tracks ≠ 0 := by decide

theorem witness_IdleCommandWritesDrivesOnly :
    State.reset.ctl = .idle ∧ (0xFC#8).getLsbD 0 = false ∧ (0xFC#8).getLsbD 1 = false := by decide

theorem witness_HandleCmdDispatches :
    (idleState 80 true).ctl = .idle ∧ decode [0x02, 7] = .ok (.wrtrk 0 0 7) ∧
      (idleState 80 true).linkSelected = false ∧
      ((idleState 80 true).drive ((0x02#8).extractLsb' 6 2)).status.getLsbD 0 = true ∧
      ((0x02#8).getLsbD 0 = true ∨ (0x02#8).getLsbD 1 = true) ∧
      ((0x30#8).getLsbD 0 = false ∧ (0x30#8).getLsbD 1 = false) := by decide

theorem witness_SetTrackWithoutTracks : (State.reset.drive 3).tracks = 0 := by decide

theorem witness_DrvstatSendsStatus : State.reset.linkSelected = false := by decide

/-- Every legal status at once. -/
theorem witness_StatusByteBits :
    ∀ d : DriveIx, ((Quad.mk (slot 1 true) (slot 1 false) DriveState.powerOn (slot 255 true)).get d).status &&& 0xEE = 0 := by
  decide

theorem witness_MountResetsSlot :
    (255 : Byte) ≠ 0 ∧ (1 : Byte) ≠ 0 ∧ State.reset.ctl = .idle ∧ State.reset.linkSelected = false := by decide

theorem witness_UnmountClearsSlot :
    (idleState 80 true).ctl = .idle ∧ (idleState 80 true).linkSelected = false := by decide

/-- The clauses of RefusalsByName with hypotheses, one after the other. -/
theorem witness_RefusalsByName :
    (State.reset.ctl = .idle ∧ State.reset.linkSelected = false ∧ (State.reset.drive 2).status.getLsbD 0 = false) ∧
      ((State.reset.drive ((0x82#8).extractLsb' 6 2)).status.getLsbD 0 = false ∧
        ((0x82#8).getLsbD 0 = true ∨ (0x82#8).getLsbD 1 = true)) ∧
      (let s := { State.reset with df := (State.reset.df).set 3 { slot 80 true with file := none } }
       s.linkSelected = false ∧ (s.drive 3).file = none ∧ (s.drive 3).status.getLsbD 4 = true) ∧
      10#4 < 11 ∧ (0 : BitVec 4) ≤ 10#4 ∧
      (let s := { running .rdLoop [0x01, 0xFF, 0, 0, 0, 0] with
         sector := 11, df := (State.reset.df).set 0 { slot 255 true with track := 254 } }
       s.linkSelected = false ∧ (s.drive 0).status.getLsbD 0 = true ∧ (s.drive 0).file = some 7 ∧
         (s.drive 0).tracks ≠ 0 ∧ s.ctl = .rdLoop ∧ 10#4 < s.sector ∧
         s.linkIn = 0x01 :: 0xFF :: 0 :: 0 :: 0 :: 0 :: [] ∧ (0x01#8).getLsbD 0 = true ∧
         BitVec.ofNat 8 (min (0xFF#8).toNat ((s.drive 0).tracks.toNat - 1)) = (s.drive 0).track) ∧
      ((session []).ctl = .idle ∧ (session []).linkSelected = true ∧ (255 : Byte) ≠ 0) := by decide

theorem witness_LiveStateFillsRegisters : (session [1, 2, 3]).linkSelected = true := by decide

/-- A session; and the reader, started at sector 10, asked for the last track of the longest image. -/
theorem witness_SendGapSends :
    (session []).linkSelected = true ∧
      (let s := { running .rdLoop [0x01, 0xFF, 0, 0, 0, 0] with
         sector := 10, df := (State.reset.df).set 0 { slot 255 true with track := 254 } }
       s.linkSelected = false ∧ (s.drive 0).status.getLsbD 0 = true ∧ (s.drive 0).file = some 7 ∧
         (s.drive 0).tracks ≠ 0 ∧ s.ctl = .rdLoop ∧ s.sector = 10 ∧ s.linkIn = 0x01 :: 0xFF :: 0 :: 0 :: 0 :: 0 :: [] ∧
         (0x01#8).getLsbD 0 = true ∧
         BitVec.ofNat 8 (min (0xFF#8).toNat ((s.drive 0).tracks.toNat - 1)) = (s.drive 0).track) := by decide

/-- A block that passes and one that does not. -/
theorem witness_DecodeDataVerdict :
    nextHolds (exec .decodeData (session (List.replicate 1032 0xAA))) (fun t => t.ret == some true && t.error == 0) ∧
    nextHolds (exec .decodeData (session (0xAB :: List.replicate 1031 0xAA))) (fun t => t.error == 29) := by
  decide +kernel

theorem witness_BitFunctionLaws : (0xAA#8 &&& 0x55 = 0) ∧ (0x00#8 &&& 0x55 = 0) := by decide

theorem witness_SectorLayout : (10 : BitVec 4) ≤ 10 ∧ (0 : BitVec 4) ≤ 10 := by decide

theorem witness_EncodeSectorSends : (10 : BitVec 4) ≤ 10 ∧ (session []).linkSelected = true := by decide

/-- One header for each branch of DecodeHeaderVerdict, the fields at their limits: second sync missing; marker FE; track
160; sector 11; gap count 0 and 12; then accepted, with gap counts 1 and 11, and with a wrong checksum. -/
theorem witness_DecodeHeaderVerdict :
    nextHolds (exec .decodeHeader (session [0x44, 0x88])) (fun t => t.error == 21) ∧
    nextHolds (exec .decodeHeader (session (header [0x55, 0x00, 0x01, 0x04, 0x54, 0x00, 0x01, 0x00] 0xAA [])))
      (fun t => t.error == 22) ∧
    nextHolds (exec .decodeHeader (session (header [0x55, 0x50, 0x01, 0x04, 0x55, 0x00, 0x01, 0x00] 0xAA [])))
      (fun t => t.error == 23) ∧
    nextHolds (exec .decodeHeader (session (header [0x55, 0x00, 0x05, 0x04, 0x55, 0x00, 0x01, 0x00] 0xAA [])))
      (fun t => t.error == 24) ∧
    nextHolds (exec .decodeHeader (session (header [0x55, 0x00, 0x01, 0x00, 0x55, 0x00, 0x01, 0x00] 0xAA [])))
      (fun t => t.error == 25) ∧
    nextHolds (exec .decodeHeader (session (header [0x55, 0x00, 0x01, 0x04, 0x55, 0x00, 0x01, 0x04] 0xAA [])))
      (fun t => t.error == 25) ∧
    nextHolds (exec .decodeHeader
      (session (header [0x55, 0x45, 0x05, 0x00, 0x55, 0x15, 0x00, 0x01] 0xAA [0xAA, 0xFA, 0xAF, 0xAB])))
      (fun t => t.ret == some true && t.hdrTrack == 159 && t.hdrSector == 10) ∧
    nextHolds (exec .decodeHeader
      (session (header [0x55, 0x00, 0x00, 0x05, 0x55, 0x00, 0x00, 0x01] 0xAA [0xAA, 0xAA, 0xAA, 0xAE])))
      (fun t => t.ret == some true && t.hdrTrack == 0 && t.hdrSector == 0) ∧
    nextHolds (exec .decodeHeader
      (session (header [0x55, 0x00, 0x00, 0x05, 0x55, 0x00, 0x00, 0x01] 0xAA [0xAA, 0xAA, 0xAA, 0xAF])))
      (fun t => t.error == 26) := by decide +kernel

theorem witness_DataRoundTrip :
    (10 : BitVec 4) ≤ 10 ∧
      (session ((sectorBytes Block.zero 10 255 0x4489).drop 56 ++ [7])).linkSelected = true ∧
      (session ((sectorBytes Block.zero 10 255 0x4489).drop 56 ++ [7])).linkIn =
        (sectorBytes Block.zero 10 255 0x4489).drop 56 ++ [7] := ⟨by decide, rfl, rfl⟩

theorem witness_HeaderRoundTrip :
    (10 : BitVec 4) ≤ 10 ∧ (159#8).toNat < 160 ∧
      (session (((sectorBytes Block.zero 10 159 0x4489).drop 6).take 50 ++ [])).linkSelected = true ∧
      (session (((sectorBytes Block.zero 10 159 0x4489).drop 6).take 50 ++ [])).linkIn =
        ((sectorBytes Block.zero 10 159 0x4489).drop 6).take 50 ++ [] := ⟨by decide, by decide, rfl, rfl⟩

/-- Bits 6 and 7 of the last byte: a data position and a clock position. -/
theorem witness_DataBitFlips :
    let flipped := fun j : Nat =>
      (let bs := (sectorBytes Block.zero 0 0 0x4489).drop 56
       bs.set 1031 (bs.getD 1031 0 ^^^ (1#8 <<< j))) ++ []
    (0 : BitVec 4) ≤ 10 ∧ (1031 < 1032 ∧ 6 < 8 ∧ 7 < 8 ∧ 6 % 2 = 0 ∧ 7 % 2 = 1) ∧
      (session (flipped 6)).linkSelected = true ∧ (session (flipped 6)).linkIn = flipped 6 ∧
      (session (flipped 7)).linkSelected = true ∧ (session (flipped 7)).linkIn = flipped 7 :=
  ⟨by decide, by decide, rfl, rfl, rfl, rfl⟩

/-- In IDLE drive 0 mounted, both with the track changed and with the cache valid. -/
theorem witness_ReadEntrySeeks :
    (running .rdEntry []).linkSelected = false ∧ ((running .rdEntry []).drive 0).status.getLsbD 0 = true ∧
      ((running .rdEntry []).drive 0).file = some 7 ∧ (running .rdEntry []).ctl ≠ .rdLoop ∧
      (running .rdEntry []).ctl ≠ .rdNext ∧ (fileAt (running .rdEntry []).store 7).size = 255 * 5632 ∧
      { running .rdEntry [] with storeIn := [good] }.storeIn = good :: [] := by decide +kernel

/-- The loop at sector 10 with a good answer waiting, the cursor aligned and inside the file. -/
theorem witness_ReadLoopServes :
    let s := { running .rdLoop [0x01, 0x00, 0x89, 0x14, 0x00, 0x00] with sector := 10, storeIn := [good] }
    s.linkSelected = false ∧ (s.drive 0).status.getLsbD 0 = true ∧ (s.drive 0).file = some 7 ∧
      (s.drive 0).tracks ≠ 0 ∧ s.ctl = .rdLoop ∧ s.sector ≤ 10 ∧ s.storeIn = good :: [] ∧
      (fileAt s.store 7).cursor % 512 = 0 ∧ (fileAt s.store 7).cursor + 512 ≤ (fileAt s.store 7).size ∧
      nextHolds (exec (.readTrack 0) s) (fun t => t.sync == 0x4489) := by decide +kernel

/-- An exit by the track, an exit by the request, an advance to the last sector, and the wrap. -/
theorem witness_ReadNextExitsOrAdvances :
    let s := { running .rdNext [] with storeIn := [good], lsStatus := 1 }
    s.linkSelected = false ∧ (s.drive 0).status.getLsbD 0 = true ∧ (s.drive 0).file = some 7 ∧ s.ctl = .rdNext ∧
      { s with lt := 1 }.lt ≠ (s.drive 0).track ∧ { s with lsStatus := 2 }.lsStatus.getLsbD 0 = false ∧
      (s.lt = (s.drive 0).track ∧ s.lsStatus.getLsbD 0 = true ∧ { s with sector := 9 }.sector < 10) ∧
      ({ s with sector := 10 }.sector = 10 ∧ s.storeIn = good :: [] ∧
        (s.drive 0).track.toNat * 11 * 512 ≤ (fileAt s.store 7).size) ∧
      nextHolds (exec (.readTrack 0) { s with sector := 10 }) (fun t => t.trace == [.storeSeek 0 0 true]) := by
  decide +kernel

/-- The last track of the longest image, its file written up to the end. -/
def lastTrack : State :=
  { State.reset with
    df := { (State.reset.df) with q0 := { slot 255 true with track := 254 } }
    ctl := .rdLoop
    store := setFile [] 7 { StoreFile.blank with cursor := 254 * 5632 }
    storeIn := List.replicate 12 good
    linkIn := (List.replicate 11 [0x01, 0xFE, 0x44, 0x89, 0x00, 0x00]).flatten ++ [7] }

theorem witness_RevolutionSendsTrack :
    let recs : List (List Byte) := List.replicate 11 [0x01, 0xFE, 0x44, 0x89, 0x00, 0x00]
    lastTrack.linkSelected = false ∧ lastTrack.ctl = .rdLoop ∧ lastTrack.sector = 0 ∧
      (lastTrack.drive lastTrack.sel).status.getLsbD 0 = true ∧ (lastTrack.drive lastTrack.sel).file = some 7 ∧
      (lastTrack.drive lastTrack.sel).track < (lastTrack.drive lastTrack.sel).tracks ∧
      (fileAt lastTrack.store 7).cursor = (lastTrack.drive lastTrack.sel).track.toNat * 5632 ∧
      (lastTrack.drive lastTrack.sel).track.toNat * 5632 + 5632 ≤ (fileAt lastTrack.store 7).size ∧
      12 ≤ lastTrack.storeIn.length ∧ (∀ a ∈ lastTrack.storeIn, a.ok = true) ∧ recs.length = 11 ∧
      (∀ r ∈ recs, r.length = 6 ∧ (r.getD 0 0).getLsbD 0 = true ∧ r.getD 1 0 = (lastTrack.drive lastTrack.sel).track) ∧
      lastTrack.linkIn = recs.flatten ++ [7] := by decide +kernel

theorem witness_RdtrkNothingWanted :
    let s := { idleState 80 true with linkIn := [0x00, 0x00, 0x44, 0x89, 0x00, 0x00, 7] }
    s.ctl = .idle ∧ s.linkSelected = false ∧ (0x01#8).getLsbD 0 = true ∧ (0x01#8).extractLsb' 6 2 = 0#2 ∧
      (s.drive 0).status.getLsbD 0 = true ∧ (s.drive 0).file = some 7 ∧ (s.drive 0).tracks ≠ 0 ∧
      (s.drive 0).trackPrev = none ∧ s.linkIn = 0x00 :: 0x00 :: 0x44 :: 0x89 :: 0x00 :: 0x00 :: [7] ∧
      (0x00#8).getLsbD 0 = false := by decide

/-- Its last clause: the seek to track 5 succeeds, and the read stands at 5 * 11 * 512. -/
theorem witness_RdtrkNothingWanted_seek :
    nextHolds
      (Sys2Proof.core.run 4
        { idleState 80 true with
          linkIn := [0x00, 0x00, 0x44, 0x89, 0x00, 0x00], storeIn := [good, good], events := [.command 0x01 0x05] })
      (fun t => t.trace.take 3 == [.ledOn, .storeSeek 0 28160 true, .storeRead 0 28160 true]) := by decide +kernel

/-- Each of the three stop conditions alone. -/
theorem witness_FindSyncStops :
    let stop := fun l : List Byte =>
      let s := running .seekSync l
      let b := fun k => (received 6 s).getD k 0
      s.linkSelected = false ∧ ((b 0).getLsbD 1 = false ∨ b 1 ≠ (s.drive 0).track ∨
        (((b 4).extractLsb' 0 6 ++ b 5 : BitVec 14) = 0 ∧ (b 4).getLsbD 7 = false))
    stop [0x01, 0x00, 0x44, 0x89, 0x80, 0x02] ∧ stop [0x02, 0x01, 0x44, 0x89, 0x80, 0x02] ∧
      stop [0x02, 0x00, 0x44, 0x89, 0x40, 0x00] := by decide

/-- A sync in the last word of a window of three, and a window of one word without it. -/
theorem witness_FindSyncHunts :
    let hunts := fun l : List Byte =>
      let s := running .seekSync l
      let b := fun k => (received 6 s).getD k 0
      s.linkSelected = false ∧ (b 0).getLsbD 1 = true ∧ b 1 = (s.drive 0).track ∧
        (((b 4).extractLsb' 0 6 ++ b 5 : BitVec 14) ≠ 0 ∨ (b 4).getLsbD 7 = true)
    let word := fun (l : List Byte) (n k : Nat) =>
      (((received (6 + 2 * n) (running .seekSync l)).drop 6).getD (2 * k) 0,
        ((received (6 + 2 * n) (running .seekSync l)).drop 6).getD (2 * k + 1) 0)
    (hunts [0x02, 0x00, 0x44, 0x89, 0x00, 0x03, 0xAA, 0xAA, 0xAA, 0xAA, 0x44, 0x89] ∧
      word [0x02, 0x00, 0x44, 0x89, 0x00, 0x03, 0xAA, 0xAA, 0xAA, 0xAA, 0x44, 0x89] 3 2 = (0x44, 0x89) ∧
      (∀ j, j < 2 → word [0x02, 0x00, 0x44, 0x89, 0x00, 0x03, 0xAA, 0xAA, 0xAA, 0xAA, 0x44, 0x89] 3 j ≠ (0x44, 0x89))) ∧
    (hunts [0x02, 0x00, 0x44, 0x89, 0x00, 0x01, 0x44, 0x88] ∧
      ∀ j, j < 1 → word [0x02, 0x00, 0x44, 0x89, 0x00, 0x01, 0x44, 0x88] 1 j ≠ (0x44, 0x89)) := by decide

/-- The live state a session gives, when its bytes are these. -/
def live (s : State) (linkIn : List Byte) : State := openData { s with linkIn := linkIn }

/-- The four clauses: no request; 25 words; 24 words and stopped; 24 words and active. -/
theorem witness_HeaderStageSession :
    (running .header []).linkSelected = false ∧
      (live (running .header []) [0x00, 0, 0, 0, 0x00, 0x19]).lsStatus.getLsbD 1 = false ∧
      (let q := live (running .header []) [0x02, 0, 0, 0, 0x00, 0x19]
       q.lsStatus.getLsbD 1 = true ∧ q.lsLen.toNat = 25) ∧
      (let q := live (running .header []) [0x02, 0, 0, 0, 0x00, 0x18]
       q.lsStatus.getLsbD 1 = true ∧ q.lsLen.toNat = 24 ∧ q.lsActive = false) ∧
      (let q := live (running .header []) [0x02, 0, 0, 0, 0x80, 0x18]
       q.lsStatus.getLsbD 1 = true ∧ q.lsLen.toNat = 24 ∧ q.lsActive = true) := by decide

/-- A seek that lands, one that fails, and one after which the tell fails. -/
theorem witness_DataStageSeeks :
    let s := { running .data [] with hdrSector := 10 }
    let bad : StoreAnswer := { ok := false, cursor := 3, block := Block.zero }
    s.linkSelected = false ∧ (s.drive 0).file = some 7 ∧ s.seekDone = false ∧
      seekLanded 0 7 { s with storeIn := [good, good] } = true ∧
      seekLanded 0 7 { s with storeIn := [bad, good] } = false ∧
      seekLanded 0 7 { s with storeIn := [good, bad] } = false ∧
      5120 ≤ (fileAt s.store 7).size := by decide

/-- The four clauses: no request; 516 words; 515 words and stopped; 515 words and active. -/
theorem witness_DataStageSession :
    let s := { running .data [] with seekDone := true }
    s.linkSelected = false ∧ (s.drive 0).file = some 7 ∧ s.seekDone = true ∧
      (live s [0x00, 0, 0, 0, 0x02, 0x04]).lsStatus.getLsbD 1 = false ∧
      (let q := live s [0x02, 0, 0, 0, 0x02, 0x04]
       q.lsStatus.getLsbD 1 = true ∧ q.lsLen.toNat = 516) ∧
      (let q := live s [0x02, 0, 0, 0, 0x02, 0x03]
       q.lsStatus.getLsbD 1 = true ∧ q.lsLen.toNat = 515 ∧ q.lsActive = false) ∧
      (let q := live s [0x02, 0, 0, 0, 0x82, 0x03]
       q.lsStatus.getLsbD 1 = true ∧ q.lsLen.toNat = 515 ∧ q.lsActive = true) := by decide

/-- The last sector of the file, with a good answer: written. -/
theorem witness_CommitWritesSector :
    let s := { running .commit [] with
      storeIn := [good], store := setFile [] 7 { StoreFile.blank with cursor := 255 * 5632 - 512 } }
    s.linkSelected = false ∧ (s.drive 0).status.getLsbD 4 = true ∧ (s.drive 0).file = some 7 ∧
      s.storeIn = good :: [] ∧ (fileAt s.store 7).cursor % 512 = 0 ∧
      (fileAt s.store 7).cursor + 512 ≤ (fileAt s.store 7).size ∧ accessOk 7 s = true := by decide +kernel

/-- The unflushed writes change: COMMIT adds the cursor 0 to them, an ok flush empties them. -/
theorem witness_CommitWritesSector_unflushed :
    nextHolds (exec (.commit 0) { running .commit [] with storeIn := [good] })
        (fun t => (fileAt t.store 7).unflushed == [0]) ∧
      nextHolds (exec (.writeTrack 0)
          { running .wrExit [] with
            storeIn := [good], store := setFile [] 7 { StoreFile.blank with unflushed := [0, 512] } })
        (fun t => (fileAt t.store 7).unflushed == []) := by decide +kernel

theorem witness_CommitProtected :
    (idleState 80 false).linkSelected = false ∧ ((idleState 80 false).drive 0).status.getLsbD 4 = false := by decide

theorem witness_WriterEntryReportExit :
    (running .wrEntry []).linkSelected = false ∧ ((running .wrEntry []).drive 0).status.getLsbD 0 = true ∧
      ((running .wrEntry []).drive 0).file = some 7 ∧ (running .wrEntry []).ctl = .wrEntry ∧
      ((running .wrReport []).ctl = .wrReport ∧ { running .wrReport [] with error := 30 }.error ≠ 0 ∧
        (running .wrReport []).error = 0) ∧
      ((running .wrExit []).ctl = .wrExit ∧ { running .wrExit [] with storeIn := [good] }.storeIn = good :: []) := by
  decide +kernel

/-- A flush that succeeds and one that fails: the list of unflushed writes is emptied or kept. -/
theorem witness_WriterEntryReportExit_flush :
    let s := { running .wrExit [] with store := setFile [] 7 { StoreFile.blank with unflushed := [512] } }
    let bad : StoreAnswer := { ok := false, cursor := 3, block := Block.zero }
    nextHolds (exec (.writeTrack 0) { s with storeIn := [good] })
        (fun t => (fileAt t.store 7).unflushed == [] && t.trace == [.storeFlush 0 true]) ∧
      nextHolds (exec (.writeTrack 0) { s with storeIn := [bad] })
        (fun t => (fileAt t.store 7).unflushed == [512] && t.trace == [.storeFlush 0 false]) := by decide +kernel

/-- FIND_SYNC with each verdict; a header of the drive's track, one of another track, one abandoned and one polled. -/
theorem witness_WriterFollowsTable :
    (running .seekSync []).linkSelected = false ∧ ((running .seekSync []).drive 0).status.getLsbD 0 = true ∧
      ((running .seekSync []).drive 0).file = some 7 ∧
      nextHolds (exec (.findSync 0) (running .seekSync [0x02, 0, 0, 0, 0x00, 0x01, 0x44, 0x89]))
        (fun u => u.ret == some true) ∧
      nextHolds (exec (.findSync 0) (running .seekSync [0x00, 0, 0, 0, 0x00, 0x01])) (fun u => u.ret == some false) ∧
      nextHolds (exec (.findSync 0) (running .seekSync [0x02, 0, 0, 0, 0x80, 0x00])) (fun u => u.ret == none) ∧
      nextHolds (exec .headerStage (running .header ([0x02, 0, 0, 0, 0x00, 0x19] ++
          header [0x55, 0x00, 0x01, 0x04, 0x55, 0x00, 0x01, 0x00] 0xAA [0xAA, 0xAA, 0xAA, 0xAE])))
        (fun u => u.ret == some true && u.hdrTrack == ((running .header []).drive 0).track) ∧
      nextHolds (exec .headerStage (running .header ([0x02, 0, 0, 0, 0x00, 0x19] ++
          header [0x55, 0x00, 0x01, 0x04, 0x55, 0x01, 0x01, 0x00] 0xAA [0xAA, 0xAB, 0xAA, 0xAE])))
        (fun u => u.ret == some true && u.hdrTrack != ((running .header []).drive 0).track) ∧
      nextHolds (exec .headerStage (running .header [0x00, 0, 0, 0, 0x00, 0x00])) (fun u => u.ret == some false) ∧
      nextHolds (exec .headerStage (running .header [0x02, 0, 0, 0, 0x80, 0x00])) (fun u => u.ret == none) := by
  decide +kernel

/-- DATA_STAGE with each verdict, and COMMIT. -/
theorem witness_WriterFollowsTable_data :
    let s := { running .data [] with seekDone := true }
    s.ctl = .data ∧
      nextHolds (exec (.dataStage 0) { s with linkIn := [0x02, 0, 0, 0, 0x02, 0x04] ++ List.replicate 1032 0xAA })
        (fun u => u.ret == some true) ∧
      nextHolds (exec (.dataStage 0) { s with linkIn := [0x02, 0, 0, 0, 0x02, 0x03] }) (fun u => u.ret == some false) ∧
      nextHolds (exec (.dataStage 0) { s with linkIn := [0x02, 0, 0, 0, 0x82, 0x03] }) (fun u => u.ret == none) ∧
      (running .commit []).ctl = .commit ∧ (∃ u, exec (.commit 0) (idleState 80 false) = .next u) :=
  ⟨rfl, by decide +kernel, by decide, by decide, rfl, ⟨_, rfl⟩⟩

theorem witness_WrtrkStopsAtOnce :
    let s := { idleState 80 true with linkIn := [0x01, 0x00, 0x44, 0x89, 0x00, 0x00, 7] }
    s.ctl = .idle ∧ s.linkSelected = false ∧ (0x02#8).getLsbD 0 = false ∧ (0x02#8).getLsbD 1 = true ∧
      (0x02#8).extractLsb' 6 2 = 0#2 ∧ (s.drive 0).status.getLsbD 0 = true ∧ (s.drive 0).file = some 7 ∧
      (s.drive 0).tracks ≠ 0 ∧ s.linkIn = 0x01 :: 0x00 :: 0x44 :: 0x89 :: 0x00 :: 0x00 :: [7] ∧
      (0x01#8).getLsbD 1 = false := by decide

/-- A running write in COMMIT that meets the invariant, at sector 3 of track 0. -/
def committing : State :=
  { running .commit [] with
    hdrSector := 3, off := 1536, storeIn := [good], buf := Block.ofList (List.replicate 512 0x5A)
    store := setFile [] 7 { StoreFile.blank with cursor := 1536 } }

theorem slot_legal : (slot 80 true).Legal := by constructor <;> decide

theorem powerOn_legal : DriveState.powerOn.Legal := by constructor <;> decide

theorem committing_inv : committing.Inv where
  link_free := rfl
  store_wf := by decide
  drives_legal := fun d => by
    have h : ∀ e : DriveIx, committing.drive e = slot 80 true ∨ committing.drive e = DriveState.powerOn := by decide
    rcases h d with h | h <;> rw [h]
    · exact slot_legal
    · exact powerOn_legal
  led_running := rfl
  sel_present := fun _ => rfl
  error_zero := fun _ => rfl
  reader_sector := by decide
  writer_cache := fun _ _ => rfl
  writer_header := by decide
  writer_cursor := by decide
  seek_mark := by decide

theorem witness_StepKeepsInvariant : committing.Inv ∧ ∃ t, step committing = .next t := ⟨committing_inv, ⟨_, rfl⟩⟩

/-- Drive 0 mounted, IDLE, these events waiting: the invariant holds. -/
theorem waiting_inv (events : List InEvent) : (waiting events).Inv where
  link_free := rfl
  store_wf := ⟨List.Pairwise.nil, fun _ h => absurd h (by simp [waiting, idleState, State.reset])⟩
  drives_legal := fun d => by
    have h : ∀ e : DriveIx, (idleState 80 true).drive e = slot 80 true ∨ (idleState 80 true).drive e = DriveState.powerOn := by
      decide
    show ((idleState 80 true).drive d).Legal
    rcases h d with h | h <;> rw [h]
    · exact slot_legal
    · exact powerOn_legal
  led_running := rfl
  sel_present := fun h => by cases h
  error_zero := fun _ => rfl
  reader_sector := fun h => by rcases h with h | h <;> cases h
  writer_cache := fun h => by cases h
  writer_header := fun h => by rcases h with h | h <;> cases h
  writer_cursor := fun h => by rcases h with ⟨h, -⟩ | h <;> cases h
  seek_mark := fun h => by cases h

/-- The same operation, at each of the writer's loops (in DATA after its seek). -/
def polling (c : Ctl) : State := { committing with ctl := c, seekDone := c == .data }

theorem polling_inv (c : Ctl) (hc : c = .seekSync ∨ c = .header ∨ c = .data) : (polling c).Inv where
  link_free := rfl
  store_wf := committing_inv.store_wf
  drives_legal := committing_inv.drives_legal
  led_running := by rcases hc with rfl | rfl | rfl <;> rfl
  sel_present := fun _ => committing_inv.sel_present rfl
  error_zero := fun _ => rfl
  reader_sector := by rcases hc with rfl | rfl | rfl <;> decide
  writer_cache := fun _ _ => rfl
  writer_header := fun _ => committing_inv.writer_header (.inr rfl)
  writer_cursor := fun _ => committing_inv.writer_cursor (.inr rfl)
  seek_mark := by rcases hc with rfl | rfl | rfl <;> decide

/-- The reader in its loop on track 0, at sector 10, the cache valid. -/
def serving : State :=
  { running .rdLoop [] with
    sector := 10
    df := (State.reset.df).set 0 { slot 80 true with trackPrev := some 0, sectorOffset := 10 } }

theorem serving_inv : serving.Inv where
  link_free := rfl
  store_wf := (waiting_inv []).store_wf
  drives_legal := fun d => by
    have h : ∀ e : DriveIx, serving.drive e = { slot 80 true with trackPrev := some 0, sectorOffset := 10 } ∨
        serving.drive e = DriveState.powerOn := by decide
    rcases h d with h | h <;> rw [h]
    · constructor <;> decide
    · exact powerOn_legal
  led_running := rfl
  sel_present := fun _ => rfl
  error_zero := fun _ => rfl
  reader_sector := by decide
  writer_cache := by decide
  writer_header := by decide
  writer_cursor := by decide
  seek_mark := by decide

/-- A state of the engine in each of the four loops. -/
theorem witness_LoopsHaveNoBound :
    ((polling .seekSync).Inv ∧ (polling .seekSync).ctl = .seekSync) ∧
      ((polling .header).Inv ∧ (polling .header).ctl = .header) ∧
      ((polling .data).Inv ∧ (polling .data).ctl = .data ∧ (polling .data).seekDone = true) ∧
      (serving.Inv ∧ serving.ctl = .rdLoop) :=
  ⟨⟨polling_inv _ (.inl rfl), rfl⟩, ⟨polling_inv _ (.inr (.inl rfl)), rfl⟩, ⟨polling_inv _ (.inr (.inr rfl)), rfl, rfl⟩,
    serving_inv, rfl⟩

/-- A command, a mount and an unmount inside the preconditions. -/
theorem witness_StepNeverStops :
    ((waiting [.command 0x01 0x00]).Inv ∧ (waiting [.command 0x01 0x00]).EventOk) ∧
      ((waiting [.mount 1 8 1 false]).Inv ∧ (waiting [.mount 1 8 1 false]).EventOk) ∧
      ((waiting [.unmount 3]).Inv ∧ (waiting [.unmount 3]).EventOk) :=
  ⟨⟨waiting_inv _, fun _ => rfl⟩, ⟨waiting_inv _, by show (1 : Byte) ≠ 0; decide⟩, ⟨waiting_inv _, trivial⟩⟩

/-- An image byte does change. -/
theorem witness_ImageChangesOnlyInCommit :
    committing.Inv ∧ nextHolds (step committing) (fun t => imageByte t 7 2047 != imageByte committing 7 2047) :=
  ⟨committing_inv, by decide +kernel⟩

theorem witness_ProtectedRunWritesNothing :
    let s := { idleState 80 false with events := [.command 0x01 0x00, .mount 1 9 80 false] }
    (∀ d, (s.drive d).status.getLsbD 4 = false) ∧
      (∀ e ∈ s.events, e ≠ .mount 1 9 80 true) ∧ (∃ t, Sys2Proof.core.run 2 s = .next t) :=
  ⟨by decide, by decide, ⟨_, rfl⟩⟩

theorem witness_OtherSlotsUntouched :
    committing.ctl.running = true ∧ (3 : DriveIx) ≠ committing.sel ∧ (∃ t, step committing = .next t) :=
  ⟨rfl, by decide, ⟨_, rfl⟩⟩

theorem witness_ReaderRaisesNothing :
    (running .rdNext []).ctl.writing = false ∧ ∃ t, step (running .rdNext []) = .next t := ⟨rfl, ⟨_, rfl⟩⟩

theorem witness_TraceOnlyGrows : ∃ t, exec .drvstat State.reset = .next t := ⟨_, rfl⟩

/-- V8 and V10: the same header with other clock bits; a data block with and without them. -/
theorem witness_ClockBitsIgnored :
    let l := header [0x55, 0x00, 0x01, 0x04, 0x55, 0x00, 0x01, 0x00] 0xAA [0xAA, 0xAA, 0xAA, 0xAE]
    let m := header [0xFF, 0xAA, 0xAB, 0xAE, 0xFF, 0xAA, 0xAB, 0xAA] 0x00 [0xAA, 0xAA, 0xAA, 0xAE]
    (session []).linkSelected = true ∧ l.length = m.length ∧ 50 ≤ l.length ∧ l ≠ m ∧
      (∀ i < 2, l.getD i 0 = m.getD i 0) ∧ (∀ i < 50, l.getD i 0 &&& 0x55 = m.getD i 0 &&& 0x55) := by
  decide +kernel

theorem witness_ClockBitsIgnored_data :
    (List.replicate 1032 (0xAA : Byte)).length = (List.replicate 1032 (0x00 : Byte)).length ∧
      1032 ≤ (List.replicate 1032 (0xAA : Byte)).length ∧
      ∀ i < 1032, (List.replicate 1032 (0xAA : Byte)).getD i 0 &&& 0x55 =
        (List.replicate 1032 (0x00 : Byte)).getD i 0 &&& 0x55 := by
  refine ⟨by rw [List.length_replicate, List.length_replicate], by rw [List.length_replicate], fun i hi => ?_⟩
  have filled : ∀ v : Byte, (List.replicate 1032 v).getD i 0 = v := fun v => by
    rw [List.getD_eq_getElem?_getD, List.getElem?_replicate, if_pos hi, Option.getD_some]
  rw [filled, filled]; decide

/-- The shortest image, and SET_TRACK on it. -/
theorem witness_MountedTrackBelowCount :
    (∀ d, ((idleState 1 true).drive d).status.getLsbD 0 = true →
      ((idleState 1 true).drive d).track < ((idleState 1 true).drive d).tracks) ∧
    ((idleState 1 true).drive 0).status.getLsbD 0 = true ∧
    ∃ t, exec (.setTrack 0 255) (idleState 1 true) = .next t := ⟨by decide, by decide, ⟨_, rfl⟩⟩

end Sys2Proof.Tests
end

section
/-! SUPPORT. The controller's answers (R14): an exchange the supply still reaches gives the supply's own byte, however
many exchanges follow. -/

namespace Sys2Proof.Machine

/-- The exchanges after the one at place `i` do not change what it gives; up to it the supply lasts. -/
theorem received_getElem?_of_lt {n i : Nat} {s : State} (hn : i < n) (hq : i < s.linkIn.length) :
    (received n s)[i]? = s.linkIn[i]? := by
  obtain ⟨later, rfl⟩ := Nat.exists_eq_add_of_le (Nat.succ_le_of_lt hn)
  calc (received (i + 1 + later) s)[i]?
      = (received (i + 1) s)[i]? := by rw [received_add, List.getElem?_append_left (by simp)]
    _ = (s.linkIn.take (i + 1))[i]? := by rw [received_of_le hq]
    _ = s.linkIn[i]? := List.getElem?_take_of_lt i.lt_succ_self

/-- The link between `received` and `State.MayReceive`: what is received is always an answer the controller may give. -/
theorem mayReceive_received (n : Nat) (s : State) : s.MayReceive (received n s) := fun _ hlen hq =>
  received_getElem?_of_lt (by simpa using hlen) hq

/-- Settles O20, from the length of what is received and its agreement with the supply place by place. -/
theorem receivedIsControllersAnswer : Obligations.ReceivedIsControllersAnswer := fun n s =>
  ⟨received_length n s, mayReceive_received n s⟩

end Sys2Proof.Machine
end

section
/-! SUPPORT. Inversion: what must have held, and what was done, when a guarded meaning or a step answers a next state.
R33, R170, R190, R230 to R237. -/

namespace Sys2Proof.Machine

/-! ## Guards and the Dispatcher -/

theorem next_of_guard {p : Prop} [Decidable p] {e : Refusal} {r : Result} {t : State}
    (h : (if p then .refused e else r) = .next t) : ¬p ∧ r = .next t := by
  split at h
  · cases h
  · next hp => exact ⟨hp, h⟩

theorem startOperation_next {entry : Ctl} {sel : DriveIx} {count : BitVec 2} {tr : Byte} {s t : State}
    (h : startOperation entry sel count tr s = .next t) :
    s.linkSelected = false ∧ (s.drive sel).present = true ∧ t = openOperation entry sel count tr s := by
  obtain ⟨-, h⟩ := next_of_guard h
  obtain ⟨hlink, h⟩ := next_of_guard h
  split at h
  · next hp => cases h; exact ⟨by simpa using hlink, hp, rfl⟩
  · cases h

theorem idleCommand_next {count : BitVec 2} {s t : State} (h : idleCommand count s = .next t) :
    t = { s with drives := count } := by
  obtain ⟨-, h⟩ := next_of_guard h
  cases h; rfl

theorem hostEvent_next {s u t : State} (h : hostEvent s u = .next t) : t = u := by
  obtain ⟨-, h⟩ := next_of_guard h
  obtain ⟨-, h⟩ := next_of_guard h
  cases h; rfl

theorem execMount_next {d : DriveIx} {f : Handle} {n : Byte} {w : Bool} {s t : State}
    (h : execMount d f n w s = .next t) :
    n ≠ 0 ∧ t = reportStatus (setDrive d (mountedDrive f n w) s) := by
  obtain ⟨hn, h⟩ := next_of_guard h
  exact ⟨hn, hostEvent_next h⟩

theorem execUnmount_next {d : DriveIx} {s t : State} (h : execUnmount d s = .next t) :
    t = reportStatus (setDrive d (unmountedDrive s.draws) { s with draws := s.draws + 1 }) :=
  hostEvent_next h

theorem execDrvstat_next {s t : State} (h : execDrvstat s = .next t) : t = reportStatus s := by
  obtain ⟨-, h⟩ := next_of_guard h
  cases h; rfl

/-- HANDLE_CMD opens the reader or the writer, or stores COUNT and nothing else. -/
theorem execHandleCmd_next {c1 c2 : Byte} {s t : State} (h : execHandleCmd c1 c2 s = .next t) :
    (∃ entry, (entry = .rdEntry ∨ entry = .wrEntry) ∧
      startOperation entry (cmdSel c1) (cmdCount c1) c2 s = .next t) ∨
    t = { s with drives := cmdCount c1 } := by
  unfold execHandleCmd at h
  split_ifs at h
  · exact .inl ⟨_, .inl rfl, h⟩
  · exact .inl ⟨_, .inr rfl, h⟩
  · exact .inr (idleCommand_next h)

/-- Decoding a command and running it is HANDLE_CMD (R230). -/
theorem exec_decodeCommand (c1 c2 : Byte) (s : State) : exec (decodeCommand c1 c2) s = execHandleCmd c1 c2 s := by
  unfold decodeCommand execHandleCmd
  split_ifs <;> rfl

/-! ## The track operations -/

theorem image?_some {s : State} {d : DriveIx} {h : Handle} (hi : s.image? d = some h) :
    (s.drive d).present = true ∧ (s.drive d).file = some h := by
  unfold State.image? at hi
  split at hi
  · next hp => exact ⟨hp, hi⟩
  · cases hi

/-- READ_TRACK's transitions, one constructor per phase. -/
inductive ReadMove (d : DriveIx) (h : Handle) (s : State) : State → Prop
  | serve : s.ctl = .rdLoop → ReadMove d h s (readServe d (readPoll d h s))
  | next : s.ctl = .rdNext → ReadMove d h s (readNext d h s)
  | entry : s.ctl ≠ .rdLoop → s.ctl ≠ .rdNext → ReadMove d h s (readEntry d h s)

/-- WRITE_TRACK's transitions, one constructor per phase. -/
inductive WriteMove (d : DriveIx) (h : Handle) (s : State) : State → Prop
  | hunt : s.ctl = .seekSync → WriteMove d h s (afterHunt (findSyncPoll d s))
  | header : s.ctl = .header → WriteMove d h s (afterHeader d (headerPoll s))
  | data : s.ctl = .data → WriteMove d h s (afterData (dataStagePoll d h s))
  | commit : s.ctl = .commit → WriteMove d h s { commitSector d h s with ctl := .wrReport }
  | report : s.ctl = .wrReport → WriteMove d h s (returnFromErr s)
  | exit : s.ctl = .wrExit → WriteMove d h s { storeFlush d h s with ctl := .idle }
  | entry : (s.ctl.writing = true → s.ctl = .wrEntry) → WriteMove d h s (writeEntry d s)

theorem execReadTrack_next {d : DriveIx} {s t : State} (hx : execReadTrack d s = .next t) :
    ∃ h, s.image? d = some h ∧ ReadMove d h s t := by
  obtain ⟨-, hx⟩ := next_of_guard hx
  split at hx
  · cases hx
  · next h hi =>
    refine ⟨h, hi, ?_⟩
    split at hx
    · next hc =>
      obtain ⟨-, hx⟩ := next_of_guard hx
      cases hx; exact .serve hc
    · next hc => cases hx; exact .next hc
    · next hl hn => cases hx; exact .entry hl hn

theorem execWriteTrack_next {d : DriveIx} {s t : State} (hx : execWriteTrack d s = .next t) :
    ∃ h, s.image? d = some h ∧ WriteMove d h s t := by
  obtain ⟨-, hx⟩ := next_of_guard hx
  split at hx
  · cases hx
  · next h hi =>
    refine ⟨h, hi, ?_⟩
    split at hx <;> cases hx
    · next hc => exact .hunt hc
    · next hc => exact .header hc
    · next hc => exact .data hc
    · next hc => exact .commit hc
    · next hc => exact .report hc
    · next hc => exact .exit hc
    · next h1 h2 h3 h4 h5 h6 =>
      refine .entry fun hw => ?_
      cases hc : s.ctl <;> simp_all [Ctl.writing]

/-! ## The step -/

/-- What the LED bracket makes of a transition's result (R238). -/
def bracketed (t : State) : State := if t.ctl = .idle then ledOff t else t

theorem bracketed_of_idle {t : State} (h : t.ctl = .idle) : bracketed t = ledOff t := if_pos h

theorem bracketed_of_ne {t : State} (h : t.ctl ≠ .idle) : bracketed t = t := if_neg h

theorem closeBracket_next {r : Result} {t : State} (h : closeBracket r = .next t) :
    ∃ u, r = .next u ∧ t = bracketed u := by
  cases r with
  | next u => cases h; exact ⟨u, rfl, rfl⟩
  | fault e => cases h
  | refused e => cases h

@[simp] theorem bracketed_df (t : State) : (bracketed t).df = t.df := by unfold bracketed; split <;> rfl

@[simp] theorem bracketed_error (t : State) : (bracketed t).error = t.error := by unfold bracketed; split <;> rfl

@[simp] theorem bracketed_store (t : State) : (bracketed t).store = t.store := by unfold bracketed; split <;> rfl

theorem step_of_reading {s : State} (h : s.ctl.reading = true) :
    step s = closeBracket (exec (.readTrack s.sel) s) := by
  unfold step; split <;> simp_all [Ctl.reading]

theorem step_of_writing {s : State} (h : s.ctl.writing = true) :
    step s = closeBracket (exec (.writeTrack s.sel) s) := by
  unfold step; split <;> simp_all [Ctl.writing]

theorem step_of_idle_nil {s : State} (hc : s.ctl = .idle) (he : s.events = []) : step s = .next s := by
  simp only [step, hc, he]

theorem step_of_idle_cons {s : State} {e : InEvent} {rest : List InEvent} (hc : s.ctl = .idle)
    (he : s.events = e :: rest) : step s = exec (fetchEvent e) { s with events := rest } := by
  cases s; subst hc he; rfl

theorem step_of_stat {s : State} (hc : s.ctl = .stat) : step s = exec .drvstat s := by
  simp only [step, hc]

/-- Everything one step can be. -/
inductive StepMove (s : State) : State → Prop
  /-- IDLE with nothing waiting. -/
  | wait : StepMove s s
  | command (c1 c2 : Byte) (rest : List InEvent) {t : State} :
      s.ctl = .idle → execHandleCmd c1 c2 { s with events := rest } = .next t → StepMove s t
  | mount (d : DriveIx) (f : Handle) (n : Byte) (w : Bool) (rest : List InEvent) :
      s.ctl = .idle → n ≠ 0 →
      StepMove s (reportStatus (setDrive d (mountedDrive f n w) { s with events := rest }))
  | unmount (d : DriveIx) (rest : List InEvent) :
      s.ctl = .idle →
      StepMove s (reportStatus (setDrive d (unmountedDrive s.draws) { s with events := rest, draws := s.draws + 1 }))
  | status : s.ctl = .stat → StepMove s (reportStatus s)
  | read {h : Handle} {t : State} :
      s.ctl.reading = true → s.image? s.sel = some h → ReadMove s.sel h s t → StepMove s (bracketed t)
  | write {h : Handle} {t : State} :
      s.ctl.writing = true → s.image? s.sel = some h → WriteMove s.sel h s t → StepMove s (bracketed t)

theorem stepMove_of_event {s t : State} {e : InEvent} {rest : List InEvent} (hc : s.ctl = .idle)
    (h : exec (fetchEvent e) { s with events := rest } = .next t) : StepMove s t := by
  cases e with
  | command c1 c2 => exact .command c1 c2 rest hc (exec_decodeCommand c1 c2 _ ▸ h)
  | mount d f n w =>
    obtain ⟨hn, rfl⟩ := execMount_next h
    exact .mount d f n w rest hc hn
  | unmount d =>
    obtain rfl := execUnmount_next h
    exact .unmount d rest hc

theorem Ctl.cases_phase (c : Ctl) : c = .idle ∨ c = .stat ∨ c.reading = true ∨ c.writing = true := by
  cases c <;> simp [Ctl.reading, Ctl.writing]

/-- A step that answers is one of these moves. -/
theorem stepMove_of_step {s t : State} (h : step s = .next t) : StepMove s t := by
  rcases s.ctl.cases_phase with hc | hc | hc | hc
  · cases he : s.events with
    | nil => rw [step_of_idle_nil hc he] at h; cases h; exact .wait
    | cons e rest => rw [step_of_idle_cons hc he] at h; exact stepMove_of_event hc h
  · rw [step_of_stat hc] at h
    obtain rfl := execDrvstat_next h
    exact .status hc
  · rw [step_of_reading hc] at h
    obtain ⟨u, hu, rfl⟩ := closeBracket_next h
    obtain ⟨k, hi, hm⟩ := execReadTrack_next hu
    exact .read hc hi hm
  · rw [step_of_writing hc] at h
    obtain ⟨u, hu, rfl⟩ := closeBracket_next h
    obtain ⟨k, hi, hm⟩ := execWriteTrack_next hu
    exact .write hc hi hm

/-- Settles O7: the step of each phase by its equation, and the closing bracket read off. -/
theorem stepInsideOperation : Obligations.StepInsideOperation := by
  intro s t
  refine ⟨fun hr hx => ?_, fun hw hx => ?_, step_of_stat, step_of_idle_nil⟩
  · rw [step_of_reading hr, hx]; rfl
  · rw [step_of_writing hw, hx]; rfl

/-- Settles O14: the byte is the model's free value for a clamp without tracks. -/
theorem setTrackWithoutTracks : Obligations.SetTrackWithoutTracks := by
  intro sel tr s h0
  have free : clampTrack tr (s.drive sel).tracks = Config.clampWithoutTracks tr := if_pos h0
  refine ⟨Config.clampWithoutTracks tr, ?_⟩
  rw [← free]; rfl

end Sys2Proof.Machine
end

section
/-! SUPPORT. What a track operation's transitions carry over, and what an instruction can do to the drive table: it
rewrites at most one record, in one of four ways. R21, R28, R170, R175, R190, R231, R236, R237, R273. -/

namespace Sys2Proof.Machine

/-! ## The frame of an operation on drive d -/

/-- What every stage of the writer keeps: the drive table, the selected drive, the LED, a released LINK, and the store's
canonical form. -/
structure StageFrame (s t : State) : Prop where
  df_eq : t.df = s.df
  sel_eq : t.sel = s.sel
  led_eq : t.led = s.led
  link_free : s.linkSelected = false → t.linkSelected = false
  store_wf : Store.wf s.store → Store.wf t.store

theorem StageFrame.trans {s t u : State} (h : StageFrame s t) (h' : StageFrame t u) : StageFrame s u :=
  ⟨h'.df_eq.trans h.df_eq, h'.sel_eq.trans h.sel_eq, h'.led_eq.trans h.led_eq, h'.link_free ∘ h.link_free,
    h'.store_wf ∘ h.store_wf⟩

/-- `state` is no part of the frame. -/
theorem StageFrame.withCtl {s t : State} (h : StageFrame s t) (c : Ctl) : StageFrame s { t with ctl := c } :=
  ⟨h.df_eq, h.sel_eq, h.led_eq, h.link_free, h.store_wf⟩

theorem StageFrame.refl (s : State) : StageFrame s s := ⟨rfl, rfl, rfl, id, id⟩

theorem StageFrame.of_outsideSession {s t : State} (h : t.outsideSession = s.outsideSession)
    (hlink : t.linkSelected = false) : StageFrame s t := by
  obtain ⟨hdf, -, hsel, -, hled, hstore, -⟩ := outsideSession_fields h
  exact ⟨hdf, hsel, hled, fun _ => hlink, fun hw => hstore ▸ hw⟩

/-- What every transition of an operation on drive d keeps: the same, but d's position cache is the operation's own. -/
structure OperationFrame (d : DriveIx) (s t : State) : Prop where
  record : ∃ prev sec, t.df = s.df.set d { s.drive d with trackPrev := prev, sectorOffset := sec }
  sel_eq : t.sel = s.sel
  led_eq : t.led = s.led
  link_free : s.linkSelected = false → t.linkSelected = false
  store_wf : Store.wf s.store → Store.wf t.store

theorem StageFrame.operation {s t : State} (h : StageFrame s t) (d : DriveIx) : OperationFrame d s t :=
  ⟨⟨_, _, h.df_eq.trans (Quad.set_get s.df d).symm⟩, h.sel_eq, h.led_eq, h.link_free, h.store_wf⟩

theorem OperationFrame.drive_of_ne {d k : DriveIx} {s t : State} (h : OperationFrame d s t) (hk : k ≠ d) :
    t.drive k = s.drive k := by
  obtain ⟨prev, sec, hdf⟩ := h.record
  rw [State.drive, hdf, Quad.get_set_of_ne _ _ hk]; rfl

/-! ## The reader's frame -/

theorem readEntry_frame (d : DriveIx) (h : Handle) (s : State) : OperationFrame d s (readEntry d h s) := by
  rw [readEntry_eq]
  exact ⟨⟨_, _, rfl⟩, rfl, rfl, id, fun hw => storeSeek_wf hw d h _⟩

theorem readServe_readPoll_frame (d : DriveIx) (h : Handle) (s : State) :
    StageFrame s (readServe d (readPoll d h s)) := by
  rw [readServe_eq]
  exact ⟨rfl, rfl, rfl, fun _ => rfl, fun hw => storeRead_wf hw d h⟩

theorem readAdvance_frame (d : DriveIx) (h : Handle) (s : State) : OperationFrame d s (readAdvance d h s) := by
  unfold readAdvance
  split
  · exact ⟨⟨_, _, rfl⟩, rfl, rfl, id, fun hw => storeSeek_wf hw d h _⟩
  · exact ⟨⟨_, _, rfl⟩, rfl, rfl, id, id⟩

theorem ReadMove.frame {d : DriveIx} {h : Handle} {s t : State} (m : ReadMove d h s t) : OperationFrame d s t := by
  cases m with
  | serve _ => exact (readServe_readPoll_frame d h s).operation d
  | next _ =>
    unfold readNext
    split
    · exact readAdvance_frame d h s
    · exact ((StageFrame.refl s).withCtl .idle).operation d
  | entry _ _ => exact readEntry_frame d h s

/-! ## The writer's frame -/

theorem findSyncPoll_stageFrame (d : DriveIx) (s : State) : StageFrame s (findSyncPoll d s) :=
  .of_outsideSession (findSyncPoll_frame d s) rfl

theorem headerPoll_stageFrame (s : State) : StageFrame s (headerPoll s) :=
  .of_outsideSession (headerPoll_frame s) rfl

theorem dataPoll_stageFrame (s : State) : StageFrame s (dataPoll s) :=
  .of_outsideSession (dataPoll_frame s) rfl

theorem dataSought_stageFrame (d : DriveIx) (h : Handle) (s : State) : StageFrame s (dataSought d h s) := by
  refine ⟨?_, ?_, ?_, ?_, fun hw => storeSeek_wf hw d h (targetOffset d s)⟩ <;> simp [dataSought]

theorem storeTell_stageFrame (d : DriveIx) (h : Handle) (s : State) : StageFrame s (storeTell d h s) :=
  ⟨rfl, rfl, rfl, id, fun hw => storeTell_wf hw d h⟩

theorem dataSeek_stageFrame (d : DriveIx) (h : Handle) (s : State) : StageFrame s (dataSeek d h s) := by
  have told := (dataSought_stageFrame d h s).trans (storeTell_stageFrame d h _)
  unfold dataSeek
  split
  · exact told.trans ⟨rfl, rfl, rfl, id, id⟩
  · exact told.trans ⟨rfl, rfl, rfl, id, id⟩

theorem dataStagePoll_stageFrame (d : DriveIx) (h : Handle) (s : State) : StageFrame s (dataStagePoll d h s) := by
  unfold dataStagePoll
  split_ifs
  · exact dataPoll_stageFrame s
  · exact (dataSeek_stageFrame d h s).trans (dataPoll_stageFrame _)
  · exact dataSeek_stageFrame d h s

theorem commitWrite_stageFrame (d : DriveIx) (h : Handle) (s : State) : StageFrame s (commitWrite d h s) := by
  rw [commitWrite_eq]
  exact ⟨rfl, rfl, rfl, id, fun hw => storeWrite_wf hw d h s.buf⟩

theorem commitSector_stageFrame (d : DriveIx) (h : Handle) (s : State) : StageFrame s (commitSector d h s) := by
  unfold commitSector
  split
  · exact commitWrite_stageFrame d h s
  · exact ⟨rfl, rfl, rfl, id, id⟩

theorem afterHunt_stageFrame (s : State) : StageFrame s (afterHunt s) := by
  unfold afterHunt; split <;> exact ⟨rfl, rfl, rfl, id, id⟩

theorem afterHeader_stageFrame (d : DriveIx) (s : State) : StageFrame s (afterHeader d s) := by
  unfold afterHeader
  split
  · exact ⟨rfl, rfl, rfl, id, id⟩
  · exact ⟨rfl, rfl, rfl, id, id⟩
  · split <;> exact ⟨rfl, rfl, rfl, id, id⟩

theorem afterData_stageFrame (s : State) : StageFrame s (afterData s) := by
  unfold afterData; split <;> exact ⟨rfl, rfl, rfl, id, id⟩

theorem writeEntry_frame (d : DriveIx) (s : State) : OperationFrame d s (writeEntry d s) :=
  ⟨⟨none, (s.drive d).sectorOffset, rfl⟩, rfl, rfl, id, id⟩

/-- The writer rewrites its record in its entry only. -/
theorem WriteMove.stageFrame_or_entry {d : DriveIx} {h : Handle} {s t : State} (m : WriteMove d h s t) :
    StageFrame s t ∨ t = writeEntry d s := by
  cases m with
  | hunt _ => exact .inl ((findSyncPoll_stageFrame d s).trans (afterHunt_stageFrame _))
  | header _ => exact .inl ((headerPoll_stageFrame s).trans (afterHeader_stageFrame d _))
  | data _ => exact .inl ((dataStagePoll_stageFrame d h s).trans (afterData_stageFrame _))
  | commit _ => exact .inl ((commitSector_stageFrame d h s).withCtl .wrReport)
  | report _ => exact .inl ⟨rfl, rfl, rfl, id, id⟩
  | exit _ => exact .inl ⟨rfl, rfl, rfl, id, fun hw => storeFlush_wf hw d h⟩
  | entry _ => exact .inr rfl

theorem WriteMove.frame {d : DriveIx} {h : Handle} {s t : State} (m : WriteMove d h s t) : OperationFrame d s t := by
  rcases m.stageFrame_or_entry with stage | rfl
  · exact stage.operation d
  · exact writeEntry_frame d s

/-- A step of a running operation is a framed transition, and then the LED bracket. -/
theorem step_running {s t : State} (hr : s.ctl.running = true) (h : step s = .next t) :
    ∃ u, OperationFrame s.sel s u ∧ t = bracketed u := by
  rcases Bool.or_eq_true_iff.1 hr with hr | hw
  · rw [step_of_reading hr] at h
    obtain ⟨u, hu, rfl⟩ := closeBracket_next h
    obtain ⟨_, -, m⟩ := execReadTrack_next hu
    exact ⟨u, m.frame, rfl⟩
  · rw [step_of_writing hw] at h
    obtain ⟨u, hu, rfl⟩ := closeBracket_next h
    obtain ⟨_, -, m⟩ := execWriteTrack_next hu
    exact ⟨u, m.frame, rfl⟩

/-- Settles O57: the transition's frame names the selected drive's record as the only one written. -/
theorem otherSlotsUntouched : Obligations.OtherSlotsUntouched := by
  intro s t d hr hd h
  obtain ⟨u, frame, rfl⟩ := step_running hr h
  calc (bracketed u).drive d = u.drive d := by rw [State.drive, bracketed_df]; rfl
    _ = s.drive d := frame.drive_of_ne hd

/-! ## The record an instruction writes -/

/-- The ways an instruction rewrites a drive record: the position cache, the track clamped, a mount, an unmount. -/
inductive RecordStep (r : DriveState) : DriveState → Prop
  | cache (prev : Option Byte) (sec : BitVec 4) : RecordStep r { r with trackPrev := prev, sectorOffset := sec }
  | track (tr : Byte) : RecordStep r { r with track := clampTrack tr r.tracks }
  | mount (f : Handle) (n : Byte) (w : Bool) : n ≠ 0 → RecordStep r (mountedDrive f n w)
  | unmount (k : Nat) : RecordStep r (unmountedDrive k)

/-- R28 for one record. -/
def DriveState.TrackBelow (r : DriveState) : Prop := r.present = true → r.track < r.tracks

theorem mountedDrive_trackBelow {n : Byte} (hn : n ≠ 0) (f : Handle) (w : Bool) : (mountedDrive f n w).TrackBelow := by
  intro _
  show (0 : Byte) < n
  exact (BitVec.pos_iff_ne_zero n).2 hn

@[simp] theorem unmountedDrive_present (k : Nat) : (unmountedDrive k).present = false := by
  show (0x00 : Byte).getLsbD 0 = false
  decide

theorem RecordStep.trackBelow {r r' : DriveState} (h : RecordStep r r') (hr : r.TrackBelow) : r'.TrackBelow := by
  cases h with
  | cache prev sec => exact hr
  | track tr =>
    intro hp
    have below : r.track < r.tracks := hr hp
    exact clampTrack_lt tr fun h0 => BitVec.not_lt_zero (h0 ▸ below)
  | mount f n w hn => exact mountedDrive_trackBelow hn f w
  | unmount k => intro hp; simp at hp

/-- One record of t comes from s's by a record step, the others are s's. -/
def RewritesRecord (s t : State) : Prop := ∃ d r, RecordStep (s.drive d) r ∧ t.df = s.df.set d r

theorem rewritesRecord_of_df_eq {s t : State} (h : t.df = s.df) : RewritesRecord s t :=
  ⟨0, _, .cache (s.drive 0).trackPrev (s.drive 0).sectorOffset, h.trans (Quad.set_get s.df 0).symm⟩

theorem StageFrame.rewritesRecord {s t : State} (h : StageFrame s t) : RewritesRecord s t :=
  rewritesRecord_of_df_eq h.df_eq

theorem OperationFrame.rewritesRecord {d : DriveIx} {s t : State} (h : OperationFrame d s t) : RewritesRecord s t :=
  let ⟨prev, sec, hdf⟩ := h.record
  ⟨d, _, .cache prev sec, hdf⟩

theorem startOperation_rewritesRecord {entry : Ctl} {sel : DriveIx} {count : BitVec 2} {tr : Byte} {s t : State}
    (h : startOperation entry sel count tr s = .next t) : RewritesRecord s t := by
  obtain ⟨-, -, rfl⟩ := startOperation_next h
  exact ⟨sel, _, .track tr, rfl⟩

theorem execHandleCmd_rewritesRecord {c1 c2 : Byte} {s t : State} (h : execHandleCmd c1 c2 s = .next t) :
    RewritesRecord s t := by
  rcases execHandleCmd_next h with ⟨entry, -, h⟩ | rfl
  · exact startOperation_rewritesRecord h
  · exact rewritesRecord_of_df_eq rfl

theorem execDataStage_rewritesRecord {d : DriveIx} {s t : State} (h : execDataStage d s = .next t) :
    RewritesRecord s t := by
  obtain ⟨-, h⟩ := next_of_guard h
  split at h
  · cases h
  · cases h; exact (dataStagePoll_stageFrame d _ s).rewritesRecord

theorem execCommit_rewritesRecord {d : DriveIx} {s t : State} (h : execCommit d s = .next t) : RewritesRecord s t := by
  obtain ⟨-, h⟩ := next_of_guard h
  split_ifs at h
  · split at h
    · cases h
    · cases h; exact (commitWrite_stageFrame d _ s).rewritesRecord
  · cases h; exact rewritesRecord_of_df_eq rfl

/-- Every instruction rewrites at most one record, in one of the four ways. -/
theorem exec_rewritesRecord {i : Instr} {s t : State} (h : exec i s = .next t) : RewritesRecord s t := by
  cases i with
  | rdtrk sel count tr => exact startOperation_rewritesRecord h
  | wrtrk sel count tr => exact startOperation_rewritesRecord h
  | idle count => exact rewritesRecord_of_df_eq (by rw [idleCommand_next h])
  | drvstat => exact rewritesRecord_of_df_eq (by rw [execDrvstat_next h]; rfl)
  | mount d f n w =>
    obtain ⟨hn, rfl⟩ := execMount_next h
    exact ⟨d, _, .mount f n w hn, rfl⟩
  | unmount d =>
    obtain rfl := execUnmount_next h
    exact ⟨d, _, .unmount s.draws, rfl⟩
  | handleCmd c1 c2 => exact execHandleCmd_rewritesRecord h
  | setTrack sel tr => cases h; exact ⟨sel, _, .track tr, rfl⟩
  | readTrack d => obtain ⟨_, -, m⟩ := execReadTrack_next h; exact m.frame.rewritesRecord
  | liveState => obtain ⟨-, h⟩ := next_of_guard h; cases h; exact rewritesRecord_of_df_eq rfl
  | encodeSector sec tr sync =>
    obtain ⟨-, h⟩ := next_of_guard h
    obtain ⟨-, h⟩ := next_of_guard h
    cases h; exact rewritesRecord_of_df_eq rfl
  | sendGap => obtain ⟨-, h⟩ := next_of_guard h; cases h; exact rewritesRecord_of_df_eq rfl
  | writeTrack d => obtain ⟨_, -, m⟩ := execWriteTrack_next h; exact m.frame.rewritesRecord
  | findSync d => obtain ⟨-, h⟩ := next_of_guard h; cases h; exact (findSyncPoll_stageFrame d s).rewritesRecord
  | headerStage => obtain ⟨-, h⟩ := next_of_guard h; cases h; exact (headerPoll_stageFrame s).rewritesRecord
  | decodeHeader =>
    obtain ⟨-, h⟩ := next_of_guard h
    cases h; exact rewritesRecord_of_df_eq (outsideSession_fields (decodeHeaderBody_frame s)).1
  | dataStage d => exact execDataStage_rewritesRecord h
  | decodeData =>
    obtain ⟨-, h⟩ := next_of_guard h
    cases h; exact rewritesRecord_of_df_eq (outsideSession_fields (decodeDataBody_frame s)).1
  | commit d => exact execCommit_rewritesRecord h

/-- What every record has and a record step keeps, all records still have. -/
theorem RewritesRecord.forall_drive {s t : State} {p : DriveState → Prop} (h : RewritesRecord s t)
    (hp : ∀ d, p (s.drive d)) (step : ∀ {r r'}, RecordStep r r' → p r → p r') (d : DriveIx) : p (t.drive d) := by
  obtain ⟨k, r, hr, hdf⟩ := h
  rw [State.drive, hdf]
  by_cases hd : d = k
  · rw [hd, Quad.get_set_self]; exact step hr (hp k)
  · rw [Quad.get_set_of_ne _ _ hd]; exact hp d

/-- Settles O53: at reset no slot is mounted, and each of the four ways to write a record keeps R28. -/
theorem mountedTrackBelowCount : Obligations.MountedTrackBelowCount := by
  refine ⟨by decide, fun i s t hs h => ?_⟩
  exact (exec_rewritesRecord h).forall_drive (p := DriveState.TrackBelow) hs RecordStep.trackBelow

/-! ## Error and the images outside the writer -/

/-- `Error` and every image byte are as before. -/
def Quiet (s t : State) : Prop := t.error = s.error ∧ SameImages s t

theorem quiet_of_store_eq {s t : State} (he : t.error = s.error) (hst : t.store = s.store) : Quiet s t :=
  ⟨he, fun k a => by rw [imageByte, hst]; rfl⟩

theorem ReadMove.quiet {d : DriveIx} {h : Handle} {s t : State} (m : ReadMove d h s t) : Quiet s t := by
  cases m with
  | serve _ => rw [readServe_eq]; exact ⟨rfl, imageByte_storeRead d h s⟩
  | next _ =>
    unfold readNext readAdvance
    split_ifs
    · exact ⟨rfl, imageByte_storeSeek d h _ s⟩
    · exact quiet_of_store_eq rfl rfl
    · exact quiet_of_store_eq rfl rfl
  | entry _ _ => rw [readEntry_eq]; exact ⟨rfl, imageByte_storeSeek d h _ s⟩

theorem execHandleCmd_quiet {c1 c2 : Byte} {s t : State} (h : execHandleCmd c1 c2 s = .next t) : Quiet s t := by
  rcases execHandleCmd_next h with ⟨entry, -, h⟩ | rfl
  · obtain ⟨-, -, rfl⟩ := startOperation_next h
    exact quiet_of_store_eq rfl rfl
  · exact quiet_of_store_eq rfl rfl

/-- Settles O58, move by move: the Dispatcher writes neither, the reader's only STORE events are seeks and reads. -/
theorem readerRaisesNothing : Obligations.ReaderRaisesNothing := by
  intro s t hw h
  show Quiet s t
  cases stepMove_of_step h with
  | wait => exact quiet_of_store_eq rfl rfl
  | command c1 c2 rest _ hx => exact (execHandleCmd_quiet hx : Quiet { s with events := rest } t)
  | mount d f n w rest _ _ => exact quiet_of_store_eq rfl rfl
  | unmount d rest _ => exact quiet_of_store_eq rfl rfl
  | status _ => exact quiet_of_store_eq rfl rfl
  | read _ _ m =>
    obtain ⟨he, hi⟩ := m.quiet
    exact ⟨(bracketed_error _).trans he, fun k a => by rw [imageByte, bracketed_store]; exact hi k a⟩
  | write hw' _ _ => rw [hw] at hw'; cases hw'

end Sys2Proof.Machine
end

section
/-! SUPPORT. The engine's invariant: what it asks in each phase, and that each transition keeps it. R24, R26, R28,
R62, R170, R190 to R197, R238, R266. -/

namespace Sys2Proof.Machine

/-! ## Legal records -/

theorem mountedDrive_legal {n : Byte} (hn : n ≠ 0) (f : Handle) (w : Bool) : (mountedDrive f n w).Legal where
  reserved := by show mountStatus w &&& 0xEE = 0; cases w <;> decide
  writable_present := by show (mountStatus w).getLsbD 4 = true → (mountStatus w).getLsbD 0 = true; cases w <;> decide
  tracks_pos := fun _ => hn
  track_lt := mountedDrive_trackBelow hn f w
  has_file := fun _ => Option.some_ne_none f
  cached_sector := fun _ => by show (0 : BitVec 4) ≤ 10; decide

theorem unmountedDrive_legal (k : Nat) : (unmountedDrive k).Legal where
  reserved := by show (0x00 : Byte) &&& 0xEE = 0; decide
  writable_present := by show (0x00 : Byte).getLsbD 4 = true → (0x00 : Byte).getLsbD 0 = true; decide
  tracks_pos := fun hp => by simp at hp
  track_lt := fun hp => by simp at hp
  has_file := fun hp => by simp at hp
  cached_sector := fun hp => by simp at hp

theorem DriveState.Legal.setTrack {r : DriveState} (h : r.Legal) (tr : Byte) :
    { r with track := clampTrack tr r.tracks }.Legal where
  reserved := h.reserved
  writable_present := h.writable_present
  tracks_pos := h.tracks_pos
  track_lt := fun hp => clampTrack_lt tr (h.tracks_pos hp)
  has_file := h.has_file
  cached_sector := h.cached_sector

theorem DriveState.Legal.setCache {r : DriveState} (h : r.Legal) (prev : Option Byte) {sec : BitVec 4}
    (hsec : sec ≤ 10) : { r with trackPrev := prev, sectorOffset := sec }.Legal where
  reserved := h.reserved
  writable_present := h.writable_present
  tracks_pos := h.tracks_pos
  track_lt := h.track_lt
  has_file := h.has_file
  cached_sector := fun _ => hsec

theorem drives_legal_of_set {s t : State} {d : DriveIx} {r : DriveState} (hs : ∀ k, (s.drive k).Legal) (hr : r.Legal)
    (hdf : t.df = s.df.set d r) (k : DriveIx) : (t.drive k).Legal := by
  rw [State.drive, hdf]
  by_cases hk : k = d
  · rw [hk, Quad.get_set_self]; exact hr
  · rw [Quad.get_set_of_ne _ _ hk]; exact hs k

/-! ## What the invariant asks, phase by phase -/

section Phases

variable {t : State}

theorem inv_of_idle (hc : t.ctl = .idle) (hlink : t.linkSelected = false) (hstore : Store.wf t.store)
    (hlegal : ∀ d, (t.drive d).Legal) (hled : t.led = false) (herr : t.error = 0) (hmark : t.seekDone = false) :
    t.Inv where
  link_free := hlink
  store_wf := hstore
  drives_legal := hlegal
  led_running := by rw [hled, hc]; rfl
  sel_present := by rw [hc]; nofun
  error_zero := fun _ => herr
  reader_sector := by rw [hc]; nofun
  writer_cache := by rw [hc]; nofun
  writer_header := by rw [hc]; nofun
  writer_cursor := by rw [hc]; nofun
  seek_mark := by rw [hmark]; nofun

/-- What the invariant asks in every phase of a running operation. -/
structure RunningCore (t : State) : Prop where
  link_free : t.linkSelected = false
  store_wf : Store.wf t.store
  drives_legal : ∀ d, (t.drive d).Legal
  led_on : t.led = true
  sel_present : (t.drive t.sel).present = true

theorem RunningCore.withCtl (h : RunningCore t) (c : Ctl) : RunningCore { t with ctl := c } :=
  ⟨h.link_free, h.store_wf, h.drives_legal, h.led_on, h.sel_present⟩

theorem inv_of_entry (core : RunningCore t) (hc : t.ctl = .rdEntry ∨ t.ctl = .wrEntry) (herr : t.error = 0)
    (hmark : t.seekDone = false) : t.Inv where
  link_free := core.link_free
  store_wf := core.store_wf
  drives_legal := core.drives_legal
  led_running := by rw [core.led_on]; rcases hc with hc | hc <;> rw [hc] <;> rfl
  sel_present := fun _ => core.sel_present
  error_zero := fun _ => herr
  reader_sector := by rcases hc with hc | hc <;> rw [hc] <;> nofun
  writer_cache := by rcases hc with hc | hc <;> simp [hc, Ctl.writing]
  writer_header := by rcases hc with hc | hc <;> rw [hc] <;> nofun
  writer_cursor := by rcases hc with hc | hc <;> rw [hc] <;> nofun
  seek_mark := by rw [hmark]; nofun

theorem inv_of_serving (core : RunningCore t) (hc : t.ctl = .rdLoop ∨ t.ctl = .rdNext) (herr : t.error = 0)
    (hmark : t.seekDone = false)
    (hsec : t.sector ≤ 10 ∧ t.sector = (t.drive t.sel).sectorOffset ∧ (t.drive t.sel).cacheValid = true) : t.Inv where
  link_free := core.link_free
  store_wf := core.store_wf
  drives_legal := core.drives_legal
  led_running := by rw [core.led_on]; rcases hc with hc | hc <;> rw [hc] <;> rfl
  sel_present := fun _ => core.sel_present
  error_zero := fun _ => herr
  reader_sector := fun _ => hsec
  writer_cache := by rcases hc with hc | hc <;> rw [hc] <;> nofun
  writer_header := by rcases hc with hc | hc <;> rw [hc] <;> nofun
  writer_cursor := by rcases hc with hc | hc <;> rw [hc] <;> nofun
  seek_mark := by rw [hmark]; nofun

theorem inv_of_writing (core : RunningCore t) (hc : t.ctl.writing = true) (hcache : (t.drive t.sel).trackPrev = none)
    (herr : t.ctl ≠ .wrReport → t.error = 0)
    (hheader : t.ctl = .data ∨ t.ctl = .commit → t.hdrTrack = (t.drive t.sel).track ∧ t.hdrSector ≤ 10)
    (hcursor : (t.ctl = .data ∧ t.seekDone = true) ∨ t.ctl = .commit →
      t.off = targetOffset t.sel t ∧ t.selFile.cursor = t.off ∧ t.off ≤ t.selFile.size)
    (hmark : t.seekDone = true → t.ctl = .data) : t.Inv where
  link_free := core.link_free
  store_wf := core.store_wf
  drives_legal := core.drives_legal
  led_running := by rw [core.led_on, Ctl.running, hc, Bool.or_true]
  sel_present := fun _ => core.sel_present
  error_zero := herr
  reader_sector := fun h => by rcases h with h | h <;> rw [h] at hc <;> cases hc
  writer_cache := fun _ _ => hcache
  writer_header := hheader
  writer_cursor := hcursor
  seek_mark := hmark

/-- A writer's phase outside DATA and COMMIT asks nothing of the header and the cursor. -/
theorem inv_of_hunting (core : RunningCore t) (hc : t.ctl.writing = true) (hdata : t.ctl ≠ .data)
    (hcommit : t.ctl ≠ .commit) (hcache : (t.drive t.sel).trackPrev = none) (herr : t.ctl ≠ .wrReport → t.error = 0)
    (hmark : t.seekDone = false) : t.Inv :=
  inv_of_writing core hc hcache herr (fun h => absurd h (by simp [hdata, hcommit]))
    (fun h => absurd h (by simp [hdata, hcommit])) (by rw [hmark]; nofun)

/-- Coming back to IDLE, the bracket turns the LED off. -/
theorem bracketed_inv_of_idle (core : RunningCore t) (hc : t.ctl = .idle) (herr : t.error = 0)
    (hmark : t.seekDone = false) : (bracketed t).Inv := by
  rw [bracketed_of_idle hc]
  exact inv_of_idle hc core.link_free core.store_wf core.drives_legal rfl herr hmark

theorem bracketed_inv (hc : t.ctl ≠ .idle) (h : t.Inv) : (bracketed t).Inv := by
  rwa [bracketed_of_ne hc]

end Phases

/-! ## What a transition inherits -/

section Inherited

variable {s t : State}

theorem State.Inv.seekDone_false (hi : s.Inv) (hc : s.ctl ≠ .data) : s.seekDone = false :=
  Bool.eq_false_iff.2 fun h => hc (hi.seek_mark h)

theorem State.Inv.sectorOffset_le (hi : s.Inv) (hr : s.ctl.running = true) : (s.drive s.sel).sectorOffset ≤ 10 :=
  (hi.drives_legal s.sel).cached_sector (hi.sel_present hr)

theorem State.Inv.runningCore_of_frame (hi : s.Inv) (hr : s.ctl.running = true) (frame : OperationFrame s.sel s t)
    (hsec : (t.drive s.sel).sectorOffset ≤ 10) : RunningCore t := by
  obtain ⟨prev, sec, hdf⟩ := frame.record
  have hself : t.drive s.sel = { s.drive s.sel with trackPrev := prev, sectorOffset := sec } := by
    rw [State.drive, hdf, Quad.get_set_self]
  rw [hself] at hsec
  refine ⟨frame.link_free hi.link_free, frame.store_wf hi.store_wf,
    drives_legal_of_set hi.drives_legal ((hi.drives_legal s.sel).setCache prev hsec) hdf, ?_, ?_⟩
  · rw [frame.led_eq, hi.led_running, hr]
  · rw [frame.sel_eq, hself]; exact hi.sel_present hr

theorem StageFrame.drive_eq (frame : StageFrame s t) (d : DriveIx) : t.drive d = s.drive d := by
  rw [State.drive, frame.df_eq]; rfl

theorem State.Inv.runningCore_of_stage (hi : s.Inv) (hr : s.ctl.running = true) (frame : StageFrame s t) :
    RunningCore t :=
  hi.runningCore_of_frame hr (frame.operation s.sel) (by rw [frame.drive_eq]; exact hi.sectorOffset_le hr)

/-- A stage leaves the cache as invalid as it found it. -/
theorem State.Inv.trackPrev_of_stage (hi : s.Inv) (hw : s.ctl.writing = true) (hne : s.ctl ≠ .wrEntry)
    (frame : StageFrame s t) : (t.drive t.sel).trackPrev = none := by
  rw [frame.sel_eq, frame.drive_eq]; exact hi.writer_cache hw hne

theorem running_of_writing {c : Ctl} (h : c.writing = true) : c.running = true := by
  rw [Ctl.running, h, Bool.or_true]

/-- A stage that ends in a writer's phase outside DATA and COMMIT keeps the invariant if it leaves `Error` zero, unless to
report it, and the seek mark clear. -/
theorem State.Inv.stage_hunting (hi : s.Inv) (hw : s.ctl.writing = true) (hne : s.ctl ≠ .wrEntry)
    (frame : StageFrame s t) (hc : t.ctl.writing = true) (hdata : t.ctl ≠ .data) (hcommit : t.ctl ≠ .commit)
    (herr : t.ctl ≠ .wrReport → t.error = 0) (hmark : t.seekDone = false) : t.Inv :=
  inv_of_hunting (hi.runningCore_of_stage (running_of_writing hw) frame) hc hdata hcommit
    (hi.trackPrev_of_stage hw hne frame) herr hmark

end Inherited

/-! ## The Dispatcher -/

theorem openOperation_inv {s : State} (hi : s.Inv) (hc : s.ctl = .idle) {entry : Ctl} {sel : DriveIx}
    (hentry : entry = .rdEntry ∨ entry = .wrEntry) (hp : (s.drive sel).present = true) (count : BitVec 2) (tr : Byte) :
    (openOperation entry sel count tr s).Inv := by
  have hdf : (openOperation entry sel count tr s).df =
      s.df.set sel { s.drive sel with track := clampTrack tr (s.drive sel).tracks } := rfl
  have hsel : ((openOperation entry sel count tr s).drive sel).present = true := by
    rw [State.drive, hdf, Quad.get_set_self]; exact hp
  have core : RunningCore (openOperation entry sel count tr s) :=
    ⟨hi.link_free, hi.store_wf, drives_legal_of_set hi.drives_legal ((hi.drives_legal sel).setTrack tr) hdf, rfl, hsel⟩
  exact inv_of_entry core hentry (hi.error_zero (by rw [hc]; nofun)) (hi.seekDone_false (by rw [hc]; nofun))

/-- In IDLE and in STAT nothing runs; whatever comes to IDLE from there with legal records, and nothing else of the
invariant's touched, keeps it. -/
theorem State.Inv.resting {s t : State} (hi : s.Inv) (hs : s.ctl = .idle ∨ s.ctl = .stat) (hc : t.ctl = .idle)
    (hlink : t.linkSelected = false) (hstore : t.store = s.store) (hlegal : ∀ d, (t.drive d).Legal)
    (hled : t.led = s.led) (herr : t.error = s.error) (hmark : t.seekDone = s.seekDone) : t.Inv := by
  have off : s.led = false := by rw [hi.led_running]; rcases hs with hs | hs <;> rw [hs] <;> rfl
  have clear : s.error = 0 := hi.error_zero (by rcases hs with hs | hs <;> rw [hs] <;> nofun)
  have unsought : s.seekDone = false := hi.seekDone_false (by rcases hs with hs | hs <;> rw [hs] <;> nofun)
  exact inv_of_idle hc hlink (hstore ▸ hi.store_wf) hlegal (hled.trans off) (herr.trans clear) (hmark.trans unsought)

theorem execHandleCmd_inv {s t : State} {c1 c2 : Byte} (hi : s.Inv) (hc : s.ctl = .idle)
    (h : execHandleCmd c1 c2 s = .next t) : t.Inv := by
  rcases execHandleCmd_next h with ⟨entry, hentry, h⟩ | rfl
  · obtain ⟨-, hp, rfl⟩ := startOperation_next h
    exact openOperation_inv hi hc hentry hp _ _
  · exact hi.resting (.inl hc) hc hi.link_free rfl hi.drives_legal rfl rfl rfl

/-- The queue of waiting events is no part of the invariant. -/
theorem State.Inv.withEvents {s : State} (hi : s.Inv) (hc : s.ctl = .idle) (rest : List InEvent) :
    ({ s with events := rest } : State).Inv :=
  hi.resting (.inl hc) hc hi.link_free rfl hi.drives_legal rfl rfl rfl

/-! ## The reader -/

section Reader

variable {s : State}

theorem readEntry_inv (hi : s.Inv) (hc : s.ctl = .rdEntry) (h : Handle) : (readEntry s.sel h s).Inv := by
  have hr : s.ctl.running = true := by rw [hc]; rfl
  set sector : BitVec 4 := if (s.drive s.sel).cacheValid then (s.drive s.sel).sectorOffset else 0 with hsector
  have hle : sector ≤ 10 := by
    rw [hsector]; split
    · exact hi.sectorOffset_le hr
    · decide
  have hdrive : (readEntry s.sel h s).drive s.sel =
      { s.drive s.sel with trackPrev := some (s.drive s.sel).track, sectorOffset := sector } := by
    rw [readEntry_eq]; exact Quad.get_set_self _ _ _
  have core := hi.runningCore_of_frame hr (readEntry_frame s.sel h s) (by rw [hdrive]; exact hle)
  refine inv_of_serving core (.inl ?_) ?_ ?_ ?_
  · rw [readEntry_eq]
  · rw [readEntry_eq]; exact hi.error_zero (by rw [hc]; nofun)
  · rw [readEntry_eq]; exact hi.seekDone_false (by rw [hc]; nofun)
  · rw [(readEntry_frame s.sel h s).sel_eq, hdrive]
    have hsec : (readEntry s.sel h s).sector = sector := by rw [readEntry_eq]
    exact ⟨hsec ▸ hle, hsec, decide_eq_true rfl⟩

theorem readServe_inv (hi : s.Inv) (hc : s.ctl = .rdLoop) (h : Handle) :
    (readServe s.sel (readPoll s.sel h s)).Inv := by
  have core := hi.runningCore_of_stage (by rw [hc]; rfl) (readServe_readPoll_frame s.sel h s)
  rw [readServe_eq] at core ⊢
  exact inv_of_serving core (.inr rfl) (hi.error_zero (by rw [hc]; nofun)) (hi.seekDone_false (by rw [hc]; nofun))
    (hi.reader_sector (.inl hc))

/-- The sector RD_NEXT goes on with. -/
theorem readAdvance_sector (d : DriveIx) (h : Handle) (s : State) (hle : s.sector ≤ 10) :
    (readAdvance d h s).sector ≤ 10 ∧
      (readAdvance d h s).drive d = { s.drive d with sectorOffset := (readAdvance d h s).sector } := by
  unfold readAdvance
  split
  · exact ⟨by show (0 : BitVec 4) ≤ 10; decide, Quad.get_set_self _ _ _⟩
  · next hne =>
    refine ⟨?_, Quad.get_set_self _ _ _⟩
    show s.sector + 1 ≤ 10
    bv_omega

theorem readAdvance_keeps (d : DriveIx) (h : Handle) (s : State) :
    (readAdvance d h s).ctl = .rdLoop ∧ (readAdvance d h s).error = s.error ∧
      (readAdvance d h s).seekDone = s.seekDone := by
  unfold readAdvance; split <;> exact ⟨rfl, rfl, rfl⟩

theorem readAdvance_inv (hi : s.Inv) (hc : s.ctl = .rdNext) (h : Handle) : (readAdvance s.sel h s).Inv := by
  obtain ⟨hle, -, hvalid⟩ := hi.reader_sector (.inr hc)
  obtain ⟨hle', hdrive⟩ := readAdvance_sector s.sel h s hle
  obtain ⟨hctl, herr, hmark⟩ := readAdvance_keeps s.sel h s
  have frame := readAdvance_frame s.sel h s
  have core := hi.runningCore_of_frame (by rw [hc]; rfl) frame (by rw [hdrive]; exact hle')
  refine inv_of_serving core (.inl hctl) (herr.trans (hi.error_zero (by rw [hc]; nofun)))
    (hmark.trans (hi.seekDone_false (by rw [hc]; nofun))) ⟨hle', ?_, ?_⟩
  · rw [frame.sel_eq, hdrive]
  · rw [frame.sel_eq, hdrive]; exact hvalid

theorem ReadMove.inv {t : State} {h : Handle} (m : ReadMove s.sel h s t) (hi : s.Inv) (hr : s.ctl.reading = true) :
    (bracketed t).Inv := by
  cases m with
  | serve hc =>
    refine bracketed_inv ?_ (readServe_inv hi hc h)
    rw [readServe_eq]; nofun
  | next hc =>
    unfold readNext
    split
    · refine bracketed_inv ?_ (readAdvance_inv hi hc h)
      rw [(readAdvance_keeps s.sel h s).1]; nofun
    · have core : RunningCore { s with ctl := .idle } :=
        hi.runningCore_of_stage (by rw [hc]; rfl) ((StageFrame.refl s).withCtl .idle)
      exact bracketed_inv_of_idle core rfl (hi.error_zero (by rw [hc]; nofun)) (hi.seekDone_false (by rw [hc]; nofun))
  | entry hl hn =>
    have hc : s.ctl = .rdEntry := by cases hc : s.ctl <;> simp_all [Ctl.reading]
    refine bracketed_inv ?_ (readEntry_inv hi hc h)
    rw [readEntry_eq]; nofun

end Reader

/-! ## The writer -/

section Writer

variable {s : State}

theorem writeEntry_inv (hi : s.Inv) (hc : s.ctl = .wrEntry) : (writeEntry s.sel s).Inv := by
  have hr : s.ctl.running = true := by rw [hc]; rfl
  have hdrive : (writeEntry s.sel s).drive s.sel = { s.drive s.sel with trackPrev := none } :=
    Quad.get_set_self _ _ _
  have core := hi.runningCore_of_frame hr (writeEntry_frame s.sel s) (by rw [hdrive]; exact hi.sectorOffset_le hr)
  have hcache : ((writeEntry s.sel s).drive (writeEntry s.sel s).sel).trackPrev = none := by
    rw [(writeEntry_frame s.sel s).sel_eq, hdrive]
  exact inv_of_hunting core rfl nofun nofun hcache (fun _ => hi.error_zero (by rw [hc]; nofun))
    (hi.seekDone_false (by rw [hc]; nofun))

theorem afterHunt_of_none {s : State} (h : s.ret = none) : afterHunt s = { s with ctl := .seekSync } := by
  cases s; subst h; rfl

theorem afterHunt_of_false {s : State} (h : s.ret = some false) : afterHunt s = { s with ctl := .wrExit } := by
  cases s; subst h; rfl

theorem afterHunt_of_true {s : State} (h : s.ret = some true) : afterHunt s = { s with error := 0, ctl := .header } := by
  cases s; subst h; rfl

theorem afterHunt_inv (hi : s.Inv) (hc : s.ctl = .seekSync) : (afterHunt (findSyncPoll s.sel s)).Inv := by
  have hw : s.ctl.writing = true := by rw [hc]; rfl
  have hne : s.ctl ≠ .wrEntry := by rw [hc]; nofun
  obtain ⟨herr, hmark, -⟩ := findSyncPoll_keeps s.sel s
  have clear : (findSyncPoll s.sel s).error = 0 := herr.trans (hi.error_zero (by rw [hc]; nofun))
  have unsought : (findSyncPoll s.sel s).seekDone = false := hmark.trans (hi.seekDone_false (by rw [hc]; nofun))
  have stage := findSyncPoll_stageFrame s.sel s
  match hret : (findSyncPoll s.sel s).ret with
  | none =>
    rw [afterHunt_of_none hret]
    exact hi.stage_hunting hw hne (stage.withCtl .seekSync) rfl nofun nofun (fun _ => clear) unsought
  | some false =>
    rw [afterHunt_of_false hret]
    exact hi.stage_hunting hw hne (stage.withCtl .wrExit) rfl nofun nofun (fun _ => clear) unsought
  | some true =>
    have frame := stage.trans (afterHunt_stageFrame (findSyncPoll s.sel s))
    rw [afterHunt_of_true hret] at frame ⊢
    exact hi.stage_hunting hw hne frame rfl nofun nofun (fun _ => rfl) unsought

theorem afterHeader_of_none {s : State} (d : DriveIx) (h : s.ret = none) :
    afterHeader d s = { s with ctl := .header } := by
  cases s; subst h; rfl

theorem afterHeader_of_false {s : State} (d : DriveIx) (h : s.ret = some false) :
    afterHeader d s = { s with ctl := .wrReport } := by
  cases s; subst h; rfl

theorem afterHeader_of_true {s : State} (d : DriveIx) (h : s.ret = some true) :
    afterHeader d s =
      if s.hdrTrack = (s.drive d).track then { s with ctl := .data, seekDone := false }
      else { raiseErr 27 s with ctl := .wrReport } := by
  cases s; subst h; rfl

theorem afterHeader_inv (hi : s.Inv) (hc : s.ctl = .header) : (afterHeader s.sel (headerPoll s)).Inv := by
  have hw : s.ctl.writing = true := by rw [hc]; rfl
  have hne : s.ctl ≠ .wrEntry := by rw [hc]; nofun
  have clear : s.error = 0 := hi.error_zero (by rw [hc]; nofun)
  have unsought : (headerPoll s).seekDone = false :=
    (headerPoll_keeps s).1.trans (hi.seekDone_false (by rw [hc]; nofun))
  have stage := headerPoll_stageFrame s
  match hret : (headerPoll s).ret with
  | none =>
    rw [afterHeader_of_none _ hret]
    exact hi.stage_hunting hw hne (stage.withCtl .header) rfl nofun nofun
      (fun _ => (headerPoll_none hret).trans clear) unsought
  | some false =>
    rw [afterHeader_of_false _ hret]
    exact hi.stage_hunting hw hne (stage.withCtl .wrReport) rfl nofun nofun (fun h => absurd rfl h) unsought
  | some true =>
    have frame := stage.trans (afterHeader_stageFrame s.sel (headerPoll s))
    rw [afterHeader_of_true _ hret] at frame ⊢
    obtain ⟨herr, hsector⟩ := headerPoll_true hret
    by_cases htrack : (headerPoll s).hdrTrack = ((headerPoll s).drive s.sel).track
    · rw [if_pos htrack] at frame ⊢
      refine inv_of_writing (hi.runningCore_of_stage (running_of_writing hw) frame) rfl
        (hi.trackPrev_of_stage hw hne frame) (fun _ => herr.trans clear) (fun _ => ⟨?_, hsector⟩) nofun nofun
      rw [frame.sel_eq]; exact htrack
    · rw [if_neg htrack] at frame ⊢
      exact hi.stage_hunting hw hne frame rfl nofun nofun (fun h => absurd rfl h) unsought

theorem afterData_of_none {s : State} (h : s.ret = none) : afterData s = { s with ctl := .data } := by
  cases s; subst h; rfl

theorem afterData_of_false {s : State} (h : s.ret = some false) : afterData s = { s with ctl := .wrReport } := by
  cases s; subst h; rfl

theorem afterData_of_true {s : State} (h : s.ret = some true) : afterData s = { s with ctl := .commit } := by
  cases s; subst h; rfl

theorem State.selFile_eq {s : State} {h : Handle} (hf : (s.drive s.sel).file = some h) :
    s.selFile = fileAt s.store h := by
  rw [State.selFile, hf]; rfl

/-- A stage that leaves the store, `off` and the header's sector leaves the cursor where it stood for the target. -/
theorem StageFrame.cursor {t : State} (frame : StageFrame s t) (hstore : t.store = s.store) (hoff : t.off = s.off)
    (hsector : t.hdrSector = s.hdrSector)
    (hs : s.off = targetOffset s.sel s ∧ s.selFile.cursor = s.off ∧ s.off ≤ s.selFile.size) :
    t.off = targetOffset t.sel t ∧ t.selFile.cursor = t.off ∧ t.off ≤ t.selFile.size := by
  have htarget : targetOffset t.sel t = targetOffset s.sel s := by
    rw [targetOffset, targetOffset, frame.sel_eq, frame.drive_eq, hsector]
  have hfile : t.selFile = s.selFile := by
    rw [State.selFile, State.selFile, frame.sel_eq, frame.drive_eq, hstore]
  rwa [htarget, hfile, hoff]

/-- DATA after its seek: the session leaves the cursor, whether it polls again or goes on to COMMIT. -/
theorem afterData_dataPoll_inv (hi : s.Inv) (hc : s.ctl = .data) (hsought : s.seekDone = true) :
    (afterData (dataPoll s)).Inv := by
  have hw : s.ctl.writing = true := by rw [hc]; rfl
  have hne : s.ctl ≠ .wrEntry := by rw [hc]; nofun
  have clear : s.error = 0 := hi.error_zero (by rw [hc]; nofun)
  have stage := dataPoll_stageFrame s
  have core := hi.runningCore_of_stage (running_of_writing hw) stage
  have hcache := hi.trackPrev_of_stage hw hne stage
  obtain ⟨htrack, hsector, -⟩ := dataPoll_keeps s
  have hheader : (dataPoll s).hdrTrack = ((dataPoll s).drive (dataPoll s).sel).track ∧ (dataPoll s).hdrSector ≤ 10 := by
    rw [htrack, hsector, stage.sel_eq, stage.drive_eq]; exact hi.writer_header (.inl hc)
  obtain ⟨-, -, -, -, -, hstore, hoff, -⟩ := outsideSession_fields (dataPoll_frame s)
  have hcursor := stage.cursor hstore hoff hsector (hi.writer_cursor (.inl ⟨hc, hsought⟩))
  match hret : (dataPoll s).ret with
  | none =>
    obtain ⟨herr, -⟩ := dataPoll_none hret
    rw [afterData_of_none hret]
    exact inv_of_writing (core.withCtl .data) rfl hcache (fun _ => herr.trans clear) (fun _ => hheader)
      (fun _ => hcursor) (fun _ => rfl)
  | some false =>
    rw [afterData_of_false hret]
    exact hi.stage_hunting hw hne (stage.withCtl .wrReport) rfl nofun nofun (fun h => absurd rfl h)
      (dataPoll_some hret)
  | some true =>
    have unsought : (dataPoll s).seekDone = false := dataPoll_some hret
    rw [afterData_of_true hret]
    exact inv_of_writing (core.withCtl .commit) rfl hcache (fun _ => (dataPoll_true hret).trans clear)
      (fun _ => hheader) (fun _ => hcursor) (fun h => absurd h (by simp [unsought]))

theorem dataSeek_keeps (d : DriveIx) (h : Handle) (s : State) :
    (dataSeek d h s).ctl = s.ctl ∧ (dataSeek d h s).off = targetOffset d s ∧
      (dataSeek d h s).hdrTrack = s.hdrTrack ∧ (dataSeek d h s).hdrSector = s.hdrSector := by
  unfold dataSeek; split <;> simp [dataSought]

theorem dataSeek_of_landed {d : DriveIx} {h : Handle} {s : State} (hl : seekLanded d h s = true) :
    dataSeek d h s = { storeTell d h (dataSought d h s) with seekDone := true } := if_pos hl

theorem dataSeek_of_not_landed {d : DriveIx} {h : Handle} {s : State} (hl : ¬seekLanded d h s = true) :
    dataSeek d h s = raiseErr Config.errSeek (storeTell d h (dataSought d h s)) := if_neg hl

/-- A landed seek is DATA's own half-way state: it has the invariant, with the seek mark set (R193, R197). -/
theorem dataSeek_inv (hi : s.Inv) (hc : s.ctl = .data) {h : Handle} (hf : (s.drive s.sel).file = some h)
    (hl : seekLanded s.sel h s = true) :
    (dataSeek s.sel h s).Inv ∧ (dataSeek s.sel h s).ctl = .data ∧ (dataSeek s.sel h s).seekDone = true := by
  have hw : s.ctl.writing = true := by rw [hc]; rfl
  have stage := dataSeek_stageFrame s.sel h s
  have core := hi.runningCore_of_stage (running_of_writing hw) stage
  have hcache := hi.trackPrev_of_stage hw (by rw [hc]; nofun) stage
  obtain ⟨hctl, hoff, htrack, hsector⟩ := dataSeek_keeps s.sel h s
  have hdata := hctl.trans hc
  have clear : (dataSeek s.sel h s).error = 0 := by
    rw [dataSeek_of_landed hl]; simpa [dataSought] using hi.error_zero (by rw [hc]; nofun)
  have hheader : (dataSeek s.sel h s).hdrTrack = ((dataSeek s.sel h s).drive (dataSeek s.sel h s).sel).track ∧
      (dataSeek s.sel h s).hdrSector ≤ 10 := by
    rw [htrack, hsector, stage.sel_eq, stage.drive_eq]; exact hi.writer_header (.inl hc)
  have htarget : targetOffset (dataSeek s.sel h s).sel (dataSeek s.sel h s) = targetOffset s.sel s := by
    rw [targetOffset, targetOffset, stage.sel_eq, stage.drive_eq, hsector]
  have hfile : (dataSeek s.sel h s).selFile = fileAt (storeTell s.sel h (dataSought s.sel h s)).store h := by
    rw [State.selFile_eq (by rw [stage.sel_eq, stage.drive_eq]; exact hf), dataSeek_of_landed hl]
  refine ⟨inv_of_writing core (by rw [hdata]; rfl) hcache (fun _ => clear) (fun _ => hheader) (fun _ => ?_)
    (fun _ => hdata), hdata, by rw [dataSeek_of_landed hl]⟩
  rw [htarget, hfile, hoff]
  exact ⟨rfl, dataSought_landed hl⟩

theorem afterData_dataStagePoll_inv (hi : s.Inv) (hc : s.ctl = .data) {h : Handle}
    (hf : (s.drive s.sel).file = some h) : (afterData (dataStagePoll s.sel h s)).Inv := by
  by_cases hsought : s.seekDone = true
  · rw [dataStagePoll, if_pos hsought]
    exact afterData_dataPoll_inv hi hc hsought
  · by_cases hl : seekLanded s.sel h s = true
    · rw [dataStagePoll, if_neg hsought, if_pos hl]
      obtain ⟨hi', hc', hsought'⟩ := dataSeek_inv hi hc hf hl
      exact afterData_dataPoll_inv hi' hc' hsought'
    · rw [dataStagePoll, if_neg hsought, if_neg hl]
      have unsought : (dataSeek s.sel h s).seekDone = false := by
        rw [dataSeek_of_not_landed hl]; simpa [dataSought] using hsought
      have hret : (dataSeek s.sel h s).ret = some false := by rw [dataSeek_of_not_landed hl]; rfl
      rw [afterData_of_false hret]
      exact hi.stage_hunting (by rw [hc]; rfl) (by rw [hc]; nofun) ((dataSeek_stageFrame s.sel h s).withCtl .wrReport)
        rfl nofun nofun (fun h => absurd rfl h) unsought

theorem commitSector_seekDone (d : DriveIx) (h : Handle) (s : State) : (commitSector d h s).seekDone = s.seekDone := by
  unfold commitSector
  split
  · rw [commitWrite_eq]; rfl
  · rfl

theorem commit_inv (hi : s.Inv) (hc : s.ctl = .commit) (h : Handle) :
    ({ commitSector s.sel h s with ctl := .wrReport } : State).Inv := by
  have frame := (commitSector_stageFrame s.sel h s).withCtl .wrReport
  exact hi.stage_hunting (by rw [hc]; rfl) (by rw [hc]; nofun) frame rfl nofun nofun (fun h => absurd rfl h)
    ((commitSector_seekDone s.sel h s).trans (hi.seekDone_false (by rw [hc]; nofun)))

theorem returnFromErr_inv (hi : s.Inv) (hc : s.ctl = .wrReport) : (returnFromErr s).Inv :=
  hi.stage_hunting (by rw [hc]; rfl) (by rw [hc]; nofun) ⟨rfl, rfl, rfl, id, id⟩ rfl nofun nofun (fun _ => rfl)
    (hi.seekDone_false (by rw [hc]; nofun))

theorem writeExit_inv (hi : s.Inv) (hc : s.ctl = .wrExit) (h : Handle) :
    (bracketed { storeFlush s.sel h s with ctl := .idle }).Inv := by
  have frame : StageFrame s { storeFlush s.sel h s with ctl := .idle } :=
    ⟨rfl, rfl, rfl, id, fun hw => storeFlush_wf hw s.sel h⟩
  exact bracketed_inv_of_idle (hi.runningCore_of_stage (by rw [hc]; rfl) frame) rfl
    (hi.error_zero (by rw [hc]; nofun)) (hi.seekDone_false (by rw [hc]; nofun))

/-- No stage but the last leaves the writer. -/
theorem afterHeader_ctl_ne_idle (d : DriveIx) (s : State) : (afterHeader d s).ctl ≠ .idle := by
  unfold afterHeader
  split
  · nofun
  · nofun
  · split <;> nofun

theorem afterHunt_ctl_ne_idle (s : State) : (afterHunt s).ctl ≠ .idle := by
  unfold afterHunt; split <;> nofun

theorem afterData_ctl_ne_idle (s : State) : (afterData s).ctl ≠ .idle := by
  unfold afterData; split <;> nofun

theorem WriteMove.inv {t : State} {h : Handle} (m : WriteMove s.sel h s t) (hi : s.Inv) (hw : s.ctl.writing = true)
    (hf : (s.drive s.sel).file = some h) : (bracketed t).Inv := by
  cases m with
  | hunt hc => exact bracketed_inv (afterHunt_ctl_ne_idle _) (afterHunt_inv hi hc)
  | header hc => exact bracketed_inv (afterHeader_ctl_ne_idle _ _) (afterHeader_inv hi hc)
  | data hc => exact bracketed_inv (afterData_ctl_ne_idle _) (afterData_dataStagePoll_inv hi hc hf)
  | commit hc => exact bracketed_inv nofun (commit_inv hi hc h)
  | report hc => exact bracketed_inv nofun (returnFromErr_inv hi hc)
  | exit hc => exact writeExit_inv hi hc h
  | entry hc => exact bracketed_inv nofun (writeEntry_inv hi (hc hw))

end Writer

/-! ## The step -/

/-- Settles O52, move by move. -/
theorem stepKeepsInvariant : Obligations.StepKeepsInvariant := by
  intro s t hi h
  cases stepMove_of_step h with
  | wait => exact hi
  | command c1 c2 rest hc hx => exact execHandleCmd_inv (hi.withEvents hc rest) hc hx
  | mount d f n w rest hc hn =>
    rw [reportStatus_eq]
    exact hi.resting (.inl hc) rfl rfl rfl
      (drives_legal_of_set (t := setDrive d (mountedDrive f n w) s) hi.drives_legal (mountedDrive_legal hn f w) rfl)
      rfl rfl rfl
  | unmount d rest hc =>
    rw [reportStatus_eq]
    exact hi.resting (.inl hc) rfl rfl rfl
      (drives_legal_of_set (t := setDrive d (unmountedDrive s.draws) s) hi.drives_legal (unmountedDrive_legal _) rfl)
      rfl rfl rfl
  | status hc => rw [reportStatus_eq]; exact hi.resting (.inr hc) rfl rfl rfl hi.drives_legal rfl rfl rfl
  | read hr _ m => exact m.inv hi hr
  | write hw hf m => exact m.inv hi hw (image?_some hf).2

end Sys2Proof.Machine
end

section
/-! SUPPORT. Which step may change an image byte: the writer's COMMIT alone, on a writable drive, in the 512 bytes from
its file's cursor on. R73, R193, R194. -/

namespace Sys2Proof.Machine

/-! ## Stages that leave every image alone -/

theorem SameImages.trans {s t u : State} (h : SameImages s t) (h' : SameImages t u) : SameImages s u :=
  fun k a => (h' k a).trans (h k a)

/-- Only the store holds image bytes. -/
theorem sameImages_of_store_eq {s t : State} (h : t.store = s.store) : SameImages s t := fun k a => by
  rw [imageByte, h]; rfl

theorem sameImages_of_outsideSession {s t : State} (h : t.outsideSession = s.outsideSession) : SameImages s t := by
  obtain ⟨-, -, -, -, -, hstore, -⟩ := outsideSession_fields h
  exact sameImages_of_store_eq hstore

@[simp] theorem afterHunt_store (s : State) : (afterHunt s).store = s.store := by
  unfold afterHunt; split <;> rfl

@[simp] theorem afterHeader_store (d : DriveIx) (s : State) : (afterHeader d s).store = s.store := by
  unfold afterHeader
  split
  · rfl
  · rfl
  · split <;> rfl

@[simp] theorem afterData_store (s : State) : (afterData s).store = s.store := by
  unfold afterData; split <;> rfl

theorem dataSeek_sameImages (d : DriveIx) (h : Handle) (s : State) : SameImages s (dataSeek d h s) := by
  have sought : SameImages s (dataSought d h s) := imageByte_storeSeek d h _ { s with off := targetOffset d s }
  have told : SameImages s (storeTell d h (dataSought d h s)) := sought.trans (imageByte_storeTell d h _)
  unfold dataSeek
  split
  · exact told
  · exact told

theorem dataStagePoll_sameImages (d : DriveIx) (h : Handle) (s : State) : SameImages s (dataStagePoll d h s) := by
  have polled : ∀ u, SameImages u (dataPoll u) := fun u => sameImages_of_outsideSession (dataPoll_frame u)
  unfold dataStagePoll
  split_ifs
  · exact polled s
  · exact (dataSeek_sameImages d h s).trans (polled _)
  · exact dataSeek_sameImages d h s

/-! ## COMMIT -/

/-- COMMIT changes a byte only of a writable drive's own file, in the block at the cursor. -/
theorem commitSector_changes {d : DriveIx} {h k : Handle} {s : State} {a : Nat}
    (hne : imageByte (commitSector d h s) k a ≠ imageByte s k a) :
    (s.drive d).writable = true ∧ k = h ∧ (fileAt s.store h).cursor ≤ a ∧ a < (fileAt s.store h).cursor + 512 := by
  unfold commitSector at hne
  split at hne
  · next hw =>
    rw [commitWrite_eq] at hne
    have inside : ¬(k ≠ h ∨ a < (fileAt s.store h).cursor ∨ (fileAt s.store h).cursor + 512 ≤ a) :=
      fun out => hne (imageByte_storeWrite_outside d h s.buf s k a out)
    exact ⟨hw, by tauto, by omega, by omega⟩
  · exact absurd rfl hne

/-- Of the writer's transitions COMMIT alone changes image bytes. -/
theorem WriteMove.sameImages_or_commit {d : DriveIx} {h : Handle} {s t : State} (m : WriteMove d h s t) :
    SameImages s t ∨ s.ctl = .commit ∧ t.store = (commitSector d h s).store := by
  cases m with
  | hunt _ =>
    exact .inl ((sameImages_of_outsideSession (findSyncPoll_frame d s)).trans
      (sameImages_of_store_eq (afterHunt_store _)))
  | header _ =>
    exact .inl ((sameImages_of_outsideSession (headerPoll_frame s)).trans
      (sameImages_of_store_eq (afterHeader_store d _)))
  | data _ => exact .inl ((dataStagePoll_sameImages d h s).trans (sameImages_of_store_eq (afterData_store _)))
  | commit hc => exact .inr ⟨hc, rfl⟩
  | report _ => exact .inl (sameImages_of_store_eq rfl)
  | exit _ => exact .inl (imageByte_storeFlush d h s)
  | entry _ => exact .inl (sameImages_of_store_eq rfl)

/-! ## The step -/

/-- What a step that changes an image byte must be, from any state: COMMIT on a writable drive that has the file, with
the byte in the block at the file's cursor. -/
theorem step_changes {s t : State} {k : Handle} {a : Nat} (h : step s = .next t)
    (hne : imageByte t k a ≠ imageByte s k a) :
    s.ctl = .commit ∧ (s.drive s.sel).writable = true ∧ (s.drive s.sel).file = some k ∧
      (fileAt s.store k).cursor ≤ a ∧ a < (fileAt s.store k).cursor + 512 := by
  have hw : s.ctl.writing = true := by
    by_contra hw
    obtain ⟨-, same⟩ := readerRaisesNothing s t (by simpa using hw) h
    exact hne (same k a)
  rw [step_of_writing hw] at h
  obtain ⟨u, hu, rfl⟩ := closeBracket_next h
  obtain ⟨f, hf, m⟩ := execWriteTrack_next hu
  rw [imageByte, bracketed_store] at hne
  rcases m.sameImages_or_commit with same | ⟨hc, hstore⟩
  · exact absurd (same k a) hne
  · rw [hstore] at hne
    obtain ⟨hwritable, rfl, hcursor⟩ := commitSector_changes hne
    exact ⟨hc, hwritable, (image?_some hf).2, hcursor⟩

/-- Settles O55: in COMMIT the invariant puts the cursor of the selected drive's file at the header's sector. -/
theorem imageChangesOnlyInCommit : Obligations.ImageChangesOnlyInCommit := by
  intro s t k a hi h hne
  obtain ⟨hc, hwritable, hfile, hlow, hhigh⟩ := step_changes h hne
  obtain ⟨hoff, hcursor, -⟩ := hi.writer_cursor (.inr hc)
  have htarget : (fileAt s.store k).cursor =
      ((s.drive s.sel).track.toNat * 11 + s.hdrSector.toNat) * 512 :=
    calc (fileAt s.store k).cursor
        = s.selFile.cursor := by rw [State.selFile_eq hfile]
      _ = targetOffset s.sel s := hcursor.trans hoff
      _ = _ := rfl
  rw [htarget] at hlow hhigh
  exact ⟨hc, hwritable, hfile, hlow, hhigh⟩

end Sys2Proof.Machine
end

section
/-! SUPPORT. The ports as the engine leaves them: no instruction takes a waiting event, and each only adds to the record
of port events. R9, R74, R290. -/

namespace Sys2Proof.Machine

/-- The queue of waiting events as before, the record of port events as before or longer. -/
structure PortFrame (s t : State) : Prop where
  events_eq : t.events = s.events
  trace_grows : ∃ evs, t.trace = s.trace ++ evs

/-- One lemma for every operation that writes its events out: they follow the earlier ones. -/
theorem PortFrame.of_append {s t : State} {evs : List PortEvent} (he : t.events = s.events)
    (ht : t.trace = s.trace ++ evs) : PortFrame s t :=
  ⟨he, evs, ht⟩

theorem PortFrame.of_eq {s t : State} (he : t.events = s.events) (ht : t.trace = s.trace) : PortFrame s t :=
  .of_append he (ht.trans (List.append_nil _).symm)

theorem PortFrame.trans {s t u : State} (h : PortFrame s t) (h' : PortFrame t u) : PortFrame s u := by
  obtain ⟨evs, ht⟩ := h.trace_grows
  obtain ⟨evs', hu⟩ := h'.trace_grows
  exact .of_append (h'.events_eq.trans h.events_eq) (by rw [hu, ht, List.append_assoc])

/-- Only the queue and the record count. -/
theorem PortFrame.congr {s t t' : State} (h : PortFrame s t) (he : t'.events = t.events) (ht : t'.trace = t.trace) :
    PortFrame s t' :=
  h.trans (.of_eq he ht)

/-! ## The LINK and the codec -/

theorem openData_portFrame (s : State) : PortFrame s (openData s) := by
  rw [openData_eq]; exact .of_append rfl (List.append_assoc _ _ _)

theorem linkDeselect_portFrame (s : State) : PortFrame s (linkDeselect s) := .of_append rfl rfl

theorem recv_portFrame (n : Nat) (s : State) : PortFrame s (recv n s) := .of_append rfl rfl

theorem send_portFrame (bs : List Byte) (s : State) : PortFrame s (send bs s) := .of_append rfl rfl

theorem checksumVerdict_portFrame (c : Byte) (s : State) : PortFrame s (checksumVerdict c s) := by
  rw [checksumVerdict_eq]; exact .of_eq rfl rfl

theorem receiveInfo_portFrame (s : State) : PortFrame s (receiveInfo s) := (recv_portFrame 8 s).congr rfl rfl

theorem receiveLabel_portFrame (s : State) : PortFrame s (receiveLabel s) := (recv_portFrame 32 s).congr rfl rfl

theorem receiveChecksum_portFrame (s : State) : PortFrame s (receiveChecksum s) := (recv_portFrame 8 s).congr rfl rfl

theorem receivePayload_portFrame (s : State) : PortFrame s (receivePayload s) := (recv_portFrame 1024 s).congr rfl rfl

theorem headerChecks_portFrame (s : State) : PortFrame s (headerChecks s) := by
  unfold headerChecks
  split
  · exact .of_eq rfl rfl
  · have taken : PortFrame s (takeHeader s) := .of_eq rfl rfl
    exact ((taken.trans (receiveLabel_portFrame _)).trans (receiveChecksum_portFrame _)).trans
      (checksumVerdict_portFrame 26 _)

theorem decodeHeaderBody_portFrame (s : State) : PortFrame s (decodeHeaderBody s) := by
  unfold decodeHeaderBody
  split
  · exact ((recv_portFrame 2 s).trans (receiveInfo_portFrame _)).trans (headerChecks_portFrame _)
  · exact (recv_portFrame 2 s).congr rfl rfl

theorem decodeDataBody_portFrame (s : State) : PortFrame s (decodeDataBody s) :=
  ((receiveChecksum_portFrame s).trans (receivePayload_portFrame _)).trans (checksumVerdict_portFrame 29 _)

/-! ## The STORE port -/

theorem storeSeek_portFrame (d : DriveIx) (h : Handle) (off : Nat) (s : State) : PortFrame s (storeSeek d h off s) :=
  .of_append rfl rfl

theorem storeRead_portFrame (d : DriveIx) (h : Handle) (s : State) : PortFrame s (storeRead d h s) :=
  .of_append rfl rfl

theorem storeWrite_portFrame (d : DriveIx) (h : Handle) (blk : Block) (s : State) :
    PortFrame s (storeWrite d h blk s) := .of_append rfl rfl

theorem storeTell_portFrame (d : DriveIx) (h : Handle) (s : State) : PortFrame s (storeTell d h s) :=
  .of_append rfl rfl

theorem storeFlush_portFrame (d : DriveIx) (h : Handle) (s : State) : PortFrame s (storeFlush d h s) :=
  .of_append rfl rfl

/-! ## The Dispatcher -/

theorem reportStatus_portFrame (s : State) : PortFrame s (reportStatus s) := by
  rw [reportStatus_eq]; exact .of_append rfl rfl

theorem startOperation_portFrame {entry : Ctl} {sel : DriveIx} {count : BitVec 2} {tr : Byte} {s t : State}
    (h : startOperation entry sel count tr s = .next t) : PortFrame s t := by
  obtain ⟨-, -, rfl⟩ := startOperation_next h
  exact .of_append (evs := [.ledOn]) rfl rfl

theorem idleCommand_portFrame {count : BitVec 2} {s t : State} (h : idleCommand count s = .next t) :
    PortFrame s t := by
  rw [idleCommand_next h]; exact .of_eq rfl rfl

theorem execHandleCmd_portFrame {c1 c2 : Byte} {s t : State} (h : execHandleCmd c1 c2 s = .next t) :
    PortFrame s t := by
  rcases execHandleCmd_next h with ⟨entry, -, h⟩ | rfl
  · exact startOperation_portFrame h
  · exact .of_eq rfl rfl

/-! ## The reader -/

theorem readEntry_portFrame (d : DriveIx) (h : Handle) (s : State) : PortFrame s (readEntry d h s) := by
  rw [readEntry_eq]; exact (storeSeek_portFrame d h _ s).congr rfl rfl

theorem readPoll_portFrame (d : DriveIx) (h : Handle) (s : State) : PortFrame s (readPoll d h s) := by
  have filled : PortFrame s (fillBuffer d h s) := (storeRead_portFrame d h s).congr rfl rfl
  exact (filled.trans (openData_portFrame _)).congr rfl rfl

theorem readServe_portFrame (d : DriveIx) (s : State) : PortFrame s (readServe d s) := by
  rw [readServe_eq]; exact .of_append rfl (List.append_assoc _ _ _)

theorem readNext_portFrame (d : DriveIx) (h : Handle) (s : State) : PortFrame s (readNext d h s) := by
  unfold readNext readAdvance
  split_ifs
  · exact (storeSeek_portFrame d h _ s).congr rfl rfl
  · exact .of_eq rfl rfl
  · exact .of_eq rfl rfl

theorem ReadMove.portFrame {d : DriveIx} {h : Handle} {s t : State} (m : ReadMove d h s t) : PortFrame s t := by
  cases m with
  | serve _ => exact (readPoll_portFrame d h s).trans (readServe_portFrame d _)
  | next _ => exact readNext_portFrame d h s
  | entry _ _ => exact readEntry_portFrame d h s

/-! ## The writer -/

theorem scanWords_portFrame (n : Nat) (s : State) : PortFrame s (scanWords n s) := by
  induction n generalizing s with
  | zero => exact .of_eq rfl rfl
  | succ n ih =>
    unfold scanWords
    split
    · exact (recv_portFrame 2 s).congr rfl rfl
    · exact (recv_portFrame 2 s).trans (ih _)

theorem huntWindow_portFrame (d : DriveIx) (s : State) : PortFrame s (huntWindow d s) := by
  have ended : PortFrame s (huntOver s) := .of_eq rfl rfl
  unfold huntWindow
  split_ifs
  · exact ended
  · exact ended
  · exact ended
  · exact scanWords_portFrame _ s

theorem headerWindow_portFrame (s : State) : PortFrame s (headerWindow s) := by
  unfold headerWindow
  split_ifs
  · exact .of_eq rfl rfl
  · exact decodeHeaderBody_portFrame s
  · exact .of_eq rfl rfl
  · exact .of_eq rfl rfl

theorem dataWindow_portFrame (s : State) : PortFrame s (dataWindow s) := by
  unfold dataWindow
  split_ifs
  · exact .of_eq rfl rfl
  · exact (decodeDataBody_portFrame s).congr rfl rfl
  · exact .of_eq rfl rfl
  · exact .of_eq rfl rfl

/-- A session's window stands between its opening and its deselect. -/
theorem PortFrame.session {s t : State} (window : PortFrame (openData s) t) : PortFrame s (linkDeselect t) :=
  ((openData_portFrame s).trans window).trans (linkDeselect_portFrame t)

theorem findSyncPoll_portFrame (d : DriveIx) (s : State) : PortFrame s (findSyncPoll d s) :=
  (huntWindow_portFrame d _).session

theorem headerPoll_portFrame (s : State) : PortFrame s (headerPoll s) := (headerWindow_portFrame _).session

theorem dataPoll_portFrame (s : State) : PortFrame s (dataPoll s) := (dataWindow_portFrame _).session

theorem dataSeek_portFrame (d : DriveIx) (h : Handle) (s : State) : PortFrame s (dataSeek d h s) := by
  have sought : PortFrame s (dataSought d h s) := .of_append rfl rfl
  have told := sought.trans (storeTell_portFrame d h _)
  unfold dataSeek
  split
  · exact told.congr rfl rfl
  · exact told.congr rfl rfl

theorem dataStagePoll_portFrame (d : DriveIx) (h : Handle) (s : State) : PortFrame s (dataStagePoll d h s) := by
  unfold dataStagePoll
  split_ifs
  · exact dataPoll_portFrame s
  · exact (dataSeek_portFrame d h s).trans (dataPoll_portFrame _)
  · exact dataSeek_portFrame d h s

theorem commitWrite_portFrame (d : DriveIx) (h : Handle) (s : State) : PortFrame s (commitWrite d h s) := by
  rw [commitWrite_eq]; exact (storeWrite_portFrame d h s.buf s).congr rfl rfl

theorem commitSector_portFrame (d : DriveIx) (h : Handle) (s : State) : PortFrame s (commitSector d h s) := by
  unfold commitSector
  split
  · exact commitWrite_portFrame d h s
  · exact .of_eq rfl rfl

theorem afterHunt_portFrame (s : State) : PortFrame s (afterHunt s) := by
  unfold afterHunt; split <;> exact .of_eq rfl rfl

theorem afterHeader_portFrame (d : DriveIx) (s : State) : PortFrame s (afterHeader d s) := by
  unfold afterHeader
  split
  · exact .of_eq rfl rfl
  · exact .of_eq rfl rfl
  · split <;> exact .of_eq rfl rfl

theorem afterData_portFrame (s : State) : PortFrame s (afterData s) := by
  unfold afterData; split <;> exact .of_eq rfl rfl

theorem WriteMove.portFrame {d : DriveIx} {h : Handle} {s t : State} (m : WriteMove d h s t) : PortFrame s t := by
  cases m with
  | hunt _ => exact (findSyncPoll_portFrame d s).trans (afterHunt_portFrame _)
  | header _ => exact (headerPoll_portFrame s).trans (afterHeader_portFrame d _)
  | data _ => exact (dataStagePoll_portFrame d h s).trans (afterData_portFrame _)
  | commit _ => exact (commitSector_portFrame d h s).congr rfl rfl
  | report _ => exact .of_append rfl rfl
  | exit _ => exact (storeFlush_portFrame d h s).congr rfl rfl
  | entry _ => exact .of_eq rfl rfl

theorem execDataStage_portFrame {d : DriveIx} {s t : State} (h : execDataStage d s = .next t) : PortFrame s t := by
  obtain ⟨-, h⟩ := next_of_guard h
  split at h
  · cases h
  · cases h; exact dataStagePoll_portFrame d _ s

theorem execCommit_portFrame {d : DriveIx} {s t : State} (h : execCommit d s = .next t) : PortFrame s t := by
  obtain ⟨-, h⟩ := next_of_guard h
  split_ifs at h
  · split at h
    · cases h
    · cases h; exact commitWrite_portFrame d _ s
  · cases h; exact .of_eq rfl rfl

/-! ## The instruction -/

theorem exec_portFrame {i : Instr} {s t : State} (h : exec i s = .next t) : PortFrame s t := by
  cases i with
  | rdtrk sel count tr => exact startOperation_portFrame h
  | wrtrk sel count tr => exact startOperation_portFrame h
  | idle count => exact idleCommand_portFrame h
  | drvstat => rw [execDrvstat_next h]; exact reportStatus_portFrame s
  | mount d f n w =>
    obtain ⟨-, rfl⟩ := execMount_next h
    have recorded : PortFrame s (setDrive d (mountedDrive f n w) s) := .of_eq rfl rfl
    exact recorded.trans (reportStatus_portFrame _)
  | unmount d =>
    obtain rfl := execUnmount_next h
    have recorded : PortFrame s (setDrive d (unmountedDrive s.draws) { s with draws := s.draws + 1 }) :=
      .of_eq rfl rfl
    exact recorded.trans (reportStatus_portFrame _)
  | handleCmd c1 c2 => exact execHandleCmd_portFrame h
  | setTrack sel tr => cases h; exact .of_eq rfl rfl
  | readTrack d => obtain ⟨_, -, m⟩ := execReadTrack_next h; exact m.portFrame
  | liveState => obtain ⟨-, h⟩ := next_of_guard h; cases h; exact (recv_portFrame 6 s).congr rfl rfl
  | encodeSector sec tr sync =>
    obtain ⟨-, h⟩ := next_of_guard h
    obtain ⟨-, h⟩ := next_of_guard h
    cases h; exact send_portFrame _ s
  | sendGap => obtain ⟨-, h⟩ := next_of_guard h; cases h; exact send_portFrame _ s
  | writeTrack d => obtain ⟨_, -, m⟩ := execWriteTrack_next h; exact m.portFrame
  | findSync d => obtain ⟨-, h⟩ := next_of_guard h; cases h; exact findSyncPoll_portFrame d s
  | headerStage => obtain ⟨-, h⟩ := next_of_guard h; cases h; exact headerPoll_portFrame s
  | decodeHeader => obtain ⟨-, h⟩ := next_of_guard h; cases h; exact decodeHeaderBody_portFrame s
  | dataStage d => exact execDataStage_portFrame h
  | decodeData => obtain ⟨-, h⟩ := next_of_guard h; cases h; exact decodeDataBody_portFrame s
  | commit d => exact execCommit_portFrame h

/-- Settles O59: the half of every instruction's frame that speaks of the record. -/
theorem traceOnlyGrows : Obligations.TraceOnlyGrows := fun _ _ _ h => (exec_portFrame h).trace_grows

end Sys2Proof.Machine
end

section
/-! SUPPORT. Protection along a run: without a writable drive and without a writable mount waiting, no step brings
either about, and none changes an image byte. R26, R73, R194, R236. -/

namespace Sys2Proof.Machine

/-! ## What a step takes from the queue -/

theorem bracketed_events (t : State) : (bracketed t).events = t.events := by unfold bracketed; split <;> rfl

/-- A step takes at most the head of the queue and adds nothing to it. -/
theorem step_events {s t : State} (h : step s = .next t) : t.events <:+ s.events := by
  rcases s.ctl.cases_phase with hc | hc | hc | hc
  · cases he : s.events with
    | nil => rw [step_of_idle_nil hc he] at h; cases h; rw [he]
    | cons e rest =>
      rw [step_of_idle_cons hc he] at h
      rw [(exec_portFrame h).events_eq]; exact List.suffix_cons e rest
  · rw [step_of_stat hc] at h
    rw [(exec_portFrame h).events_eq]
  · rw [step_of_reading hc] at h
    obtain ⟨u, hu, rfl⟩ := closeBracket_next h
    rw [bracketed_events, (exec_portFrame hu).events_eq]
  · rw [step_of_writing hc] at h
    obtain ⟨u, hu, rfl⟩ := closeBracket_next h
    rw [bracketed_events, (exec_portFrame hu).events_eq]

/-! ## No drive becomes writable -/

/-- No drive's writable bit is set. -/
def State.Unwritable (s : State) : Prop := ∀ d, (s.drive d).writable = false

theorem State.Unwritable.of_set {s t : State} {d : DriveIx} {r : DriveState} (hs : s.Unwritable)
    (hdf : t.df = s.df.set d r) (hr : r.writable = false) : t.Unwritable := fun k => by
  rw [State.drive, hdf]
  by_cases hk : k = d
  · rw [hk, Quad.get_set_self]; exact hr
  · rw [Quad.get_set_of_ne _ _ hk]; exact hs k

theorem State.Unwritable.of_df_eq {s t : State} (hs : s.Unwritable) (hdf : t.df = s.df) : t.Unwritable := fun k => by
  rw [State.drive, hdf]; exact hs k

theorem mountedDrive_unwritable (f : Handle) (n : Byte) : (mountedDrive f n false).writable = false := by
  show (mountStatus false).getLsbD 4 = false
  decide

theorem unmountedDrive_unwritable (k : Nat) : (unmountedDrive k).writable = false := by
  show (0x00 : Byte).getLsbD 4 = false
  decide

/-- Of the events only a writable MOUNT sets a writable bit. -/
theorem State.Unwritable.exec_fetchEvent {s t : State} {e : InEvent} (hs : s.Unwritable)
    (he : ∀ d f n, e ≠ .mount d f n true) (h : exec (fetchEvent e) s = .next t) : t.Unwritable := by
  cases e with
  | command c1 c2 =>
    have h : execHandleCmd c1 c2 s = .next t := exec_decodeCommand c1 c2 s ▸ h
    rcases execHandleCmd_next h with ⟨entry, -, h⟩ | rfl
    · obtain ⟨-, -, rfl⟩ := startOperation_next h
      exact hs.of_set rfl (hs (cmdSel c1))
    · exact hs
  | mount d f n w =>
    obtain rfl : w = false := Bool.eq_false_iff.2 fun hw => he d f n (hw ▸ rfl)
    obtain ⟨-, rfl⟩ := execMount_next h
    exact hs.of_set rfl (mountedDrive_unwritable f n)
  | unmount d =>
    obtain rfl := execUnmount_next h
    exact hs.of_set rfl (unmountedDrive_unwritable s.draws)

/-- A track operation rewrites nothing of a record but its position cache. -/
theorem OperationFrame.unwritable {d : DriveIx} {s t : State} (frame : OperationFrame d s t) (hs : s.Unwritable) :
    t.Unwritable := by
  obtain ⟨_, _, hdf⟩ := frame.record
  exact hs.of_set hdf (hs d)

/-! ## The run -/

/-- No drive is writable and no writable mount waits. -/
structure State.Protected (s : State) : Prop where
  drives : s.Unwritable
  mounts : ∀ e ∈ s.events, ∀ d f n, e ≠ .mount d f n true

theorem State.Protected.step_unwritable {s t : State} (hs : s.Protected) (h : step s = .next t) : t.Unwritable := by
  rcases s.ctl.cases_phase with hc | hc | hr | hw
  · cases he : s.events with
    | nil => rw [step_of_idle_nil hc he] at h; cases h; exact hs.drives
    | cons e rest =>
      rw [step_of_idle_cons hc he] at h
      have hdrives : ({ s with events := rest } : State).Unwritable := hs.drives
      exact hdrives.exec_fetchEvent (hs.mounts e (he ▸ List.mem_cons_self)) h
  · rw [step_of_stat hc] at h
    obtain rfl := execDrvstat_next h
    exact hs.drives.of_df_eq rfl
  · obtain ⟨u, frame, rfl⟩ := step_running (by rw [Ctl.running, hr, Bool.true_or]) h
    exact (frame.unwritable hs.drives).of_df_eq (bracketed_df u)
  · obtain ⟨u, frame, rfl⟩ := step_running (running_of_writing hw) h
    exact (frame.unwritable hs.drives).of_df_eq (bracketed_df u)

theorem State.Protected.of_step {s t : State} (hs : s.Protected) (h : step s = .next t) : t.Protected where
  drives := hs.step_unwritable h
  mounts := fun e he => hs.mounts e ((step_events h).mem he)

theorem State.Protected.step_sameImages {s t : State} (hs : s.Protected) (h : step s = .next t) :
    SameImages s t := by
  intro k a
  by_contra hne
  obtain ⟨-, hwritable, -⟩ := step_changes h hne
  rw [hs.drives s.sel] at hwritable
  cases hwritable

/-- A run of one step more is a step and then the run. -/
theorem run_succ_next {M : Host.Core} {n : Nat} {s t : M.State} (h : M.run (n + 1) s = .next t) :
    ∃ u, M.step s = .next u ∧ M.run n u = .next t := by
  unfold Host.Core.run at h
  split at h
  · next u hu => exact ⟨u, hu, h⟩
  · cases h
  · cases h

/-- Protection lasts, so no step of the run changes an image. -/
theorem State.Protected.run_sameImages {n : Nat} {s t : State} (hs : s.Protected)
    (h : Sys2Proof.core.run n s = .next t) : SameImages s t := by
  induction n generalizing s with
  | zero => cases h; exact sameImages_of_store_eq rfl
  | succ n ih =>
    obtain ⟨u, hu, h⟩ := run_succ_next h
    exact (hs.step_sameImages hu).trans (ih (hs.of_step hu) h)

/-- Settles O56: the statement's two hypotheses are what protection asks. -/
theorem protectedRunWritesNothing : Obligations.ProtectedRunWritesNothing :=
  fun _ _ _ hdrives hmounts h => State.Protected.run_sameImages ⟨hdrives, hmounts⟩ h

end Sys2Proof.Machine
end

section
/-! SUPPORT. Refusals: under which name each guard refuses. R61, R62, R296, U1, U10, U11. -/

namespace Sys2Proof.Machine

/-! ## The guards of the Dispatcher -/

section Dispatcher

variable {s : State}

theorem startOperation_linkBusy (hc : s.ctl = .idle) (hlink : s.linkSelected = true) (entry : Ctl) (sel : DriveIx)
    (count : BitVec 2) (tr : Byte) : startOperation entry sel count tr s = .refused .linkBusy := by
  rw [startOperation, if_neg (not_not.2 hc), if_pos hlink]

theorem startOperation_noImage {sel : DriveIx} (hc : s.ctl = .idle) (hlink : s.linkSelected = false)
    (hp : (s.drive sel).present = false) (entry : Ctl) (count : BitVec 2) (tr : Byte) :
    startOperation entry sel count tr s = .refused .noImage := by
  simp [startOperation, hc, hlink, hp]

theorem hostEvent_linkBusy (hc : s.ctl = .idle) (hlink : s.linkSelected = true) (u : State) :
    hostEvent s u = .refused .linkBusy := by
  rw [hostEvent, if_neg (not_not.2 hc), if_pos hlink]

/-- With a flag HANDLE_CMD is the opening of a track operation (R230). -/
theorem execHandleCmd_of_flag {c1 : Byte} (hflag : cmdRd c1 = true ∨ cmdWr c1 = true) (c2 : Byte) (s : State) :
    ∃ entry, execHandleCmd c1 c2 s = startOperation entry (cmdSel c1) (cmdCount c1) c2 s := by
  unfold execHandleCmd
  split_ifs with hrd hwr
  · exact ⟨_, rfl⟩
  · exact ⟨_, rfl⟩
  · exact absurd hflag (by simp [hrd, hwr])

end Dispatcher

/-! ## The guards of the track operations -/

section Operations

variable {d : DriveIx} {s : State}

theorem image?_eq_none (h : (s.drive d).present = false ∨ (s.drive d).file = none) : s.image? d = none := by
  unfold State.image?
  split
  · next hp => exact h.resolve_left (by simp [hp])
  · rfl

theorem execReadTrack_noImage (hlink : s.linkSelected = false) (hi : s.image? d = none) :
    execReadTrack d s = .refused .noImage := by
  simp [execReadTrack, hlink, hi]

theorem execWriteTrack_noImage (hlink : s.linkSelected = false) (hi : s.image? d = none) :
    execWriteTrack d s = .refused .noImage := by
  simp [execWriteTrack, hlink, hi]

theorem execDataStage_noImage (hlink : s.linkSelected = false) (hf : (s.drive d).file = none) :
    execDataStage d s = .refused .noImage := by
  simp [execDataStage, hlink, hf]

theorem execCommit_noImage (hlink : s.linkSelected = false) (hf : (s.drive d).file = none)
    (hw : (s.drive d).writable = true) : execCommit d s = .refused .noImage := by
  simp [execCommit, hlink, hf, hw]

/-- What RD_LOOP decides on: the track byte and the RD flag of the six bytes its session receives (R172, R173). -/
theorem wantsTrack_readPoll (d : DriveIx) (h : Handle) (s : State) :
    wantsTrack d (readPoll d h s) =
      (decide (clampTrack (byteAt (received 6 (fillBuffer d h s)) 1) (s.drive d).tracks = (s.drive d).track) &&
        cmdRd (byteAt (received 6 (fillBuffer d h s)) 0)) := rfl

/-- A live state with the RD flag and, clamped, the drive's own track asks for that track. -/
theorem wantsTrack_of_linkIn {h : Handle} {b0 b1 b2 b3 b4 b5 : Byte} {rest : List Byte}
    (hn : (s.drive d).tracks ≠ 0) (hin : s.linkIn = b0 :: b1 :: b2 :: b3 :: b4 :: b5 :: rest)
    (hrd : b0.getLsbD 0 = true)
    (htrack : BitVec.ofNat 8 (min b1.toNat ((s.drive d).tracks.toNat - 1)) = (s.drive d).track) :
    wantsTrack d (readPoll d h s) = true := by
  have hfill : (fillBuffer d h s).linkIn = b0 :: b1 :: b2 :: b3 :: b4 :: b5 :: rest := hin
  have hlive : received 6 (fillBuffer d h s) = [b0, b1, b2, b3, b4, b5] := by
    rw [received_of_le (by rw [hfill]; simp), hfill]; rfl
  have hclamp : clampTrack b1 (s.drive d).tracks = (s.drive d).track := by rw [clampTrack_eq_min b1 hn, htrack]
  have hflag : cmdRd b0 = true := hrd
  rw [wantsTrack_readPoll, hlive]
  show (decide (clampTrack b1 (s.drive d).tracks = (s.drive d).track) && cmdRd b0) = true
  rw [hclamp, hflag, decide_eq_true rfl, Bool.and_true]

/-- READ_TRACK about to send a sector above 10 (U11). -/
theorem execReadTrack_sectorOutOfRange {h : Handle} (hlink : s.linkSelected = false) (hi : s.image? d = some h)
    (hc : s.ctl = .rdLoop) (hwants : wantsTrack d (readPoll d h s) = true) (hsec : Config.lastSector < s.sector) :
    execReadTrack d s = .refused .sectorOutOfRange := by
  simp [execReadTrack, hlink, hi, hc, hwants, hsec]

theorem execEncodeSector_linkNotSelected {sec : BitVec 4} (hsec : sec ≤ 10) (hlink : s.linkSelected = false) (tr : Byte)
    (sync : Word16) : execEncodeSector sec tr sync s = .refused .linkNotSelected := by
  have inRange : ¬Config.lastSector < sec := BitVec.not_lt.2 hsec
  rw [execEncodeSector, if_neg inRange, if_pos hlink]

end Operations

/-- Settles O19, guard by guard. -/
theorem refusalsByName : Obligations.RefusalsByName := by
  refine ⟨?rdtrk_wrtrk, ?handleCmd, ?noFile, ?mount, ?encodeSector, ?readTrack, ?noSession, ?idleInSession, ?inSession⟩
  case rdtrk_wrtrk =>
    intro sel count tr s hc hlink hp
    exact ⟨startOperation_noImage hc hlink hp _ _ _, startOperation_noImage hc hlink hp _ _ _⟩
  case handleCmd =>
    intro c1 c2 s hc hlink hp hflag
    obtain ⟨entry, hstart⟩ := execHandleCmd_of_flag hflag c2 s
    exact hstart.trans (startOperation_noImage hc hlink hp _ _ _)
  case noFile =>
    intro d s hlink
    refine ⟨fun h => ?_, execDataStage_noImage hlink, execCommit_noImage hlink⟩
    have hi : s.image? d = none := image?_eq_none h
    exact ⟨execReadTrack_noImage hlink hi, execWriteTrack_noImage hlink hi⟩
  case mount => exact fun _ _ _ _ => rfl
  case encodeSector => exact fun sec tr sync s hsec => if_pos hsec
  case readTrack =>
    intro d h b0 b1 b2 b3 b4 b5 rest s hlink hp hf hn hc hsec hin hrd htrack
    exact execReadTrack_sectorOutOfRange hlink (image?_eq_some hp hf) hc (wantsTrack_of_linkIn hn hin hrd htrack) hsec
  case noSession =>
    intro s hlink
    exact ⟨if_pos hlink, if_pos hlink, if_pos hlink, if_pos hlink, fun sec tr sync hsec =>
      execEncodeSector_linkNotSelected hsec hlink tr sync⟩
  case idleInSession =>
    intro s hc hlink
    refine ⟨fun sel count tr => ?_, fun c1 c2 hflag => ?_, fun d f n w hn => ?_, fun d => hostEvent_linkBusy hc hlink _⟩
    · exact ⟨startOperation_linkBusy hc hlink _ _ _ _, startOperation_linkBusy hc hlink _ _ _ _⟩
    · obtain ⟨entry, hstart⟩ := execHandleCmd_of_flag hflag c2 s
      exact hstart.trans (startOperation_linkBusy hc hlink _ _ _ _)
    · exact (if_neg hn).trans (hostEvent_linkBusy hc hlink _)
  case inSession =>
    exact fun d s hlink => ⟨if_pos hlink, if_pos hlink, if_pos hlink, if_pos hlink, if_pos hlink, if_pos hlink,
      if_pos hlink⟩

end Sys2Proof.Machine
end

section
/-! SUPPORT. The command format: the fields of an encoded status/command byte, and the two round trips between bytes
and instructions. R91 to R94, R109. -/

namespace Sys2Proof

/-! ## The status/command byte -/

/-- The layout of R91, bit by bit. Bits 3:2 belong to no field and are 0. -/
theorem getLsbD_encodeC1 (rd wr : Bool) (count : BitVec 2) (sel : DriveIx) (i : Nat) :
    (encodeC1 rd wr count sel).getLsbD i =
      (decide (i = 0) && rd || decide (i = 1) && wr || decide (4 ≤ i ∧ i < 6) && count.getLsbD (i - 4) ||
        decide (6 ≤ i ∧ i < 8) && sel.getLsbD (i - 6)) := by
  by_cases hi : i < 8
  · interval_cases i <;>
      simp [encodeC1, Config.cmdRdBit, Config.cmdWrBit, Config.cmdCountLow, Config.cmdSelLow]
  · rw [BitVec.getLsbD_of_ge _ _ (not_lt.1 hi)]
    simp; omega

@[simp] theorem cmdRd_encodeC1 (rd wr : Bool) (count : BitVec 2) (sel : DriveIx) :
    cmdRd (encodeC1 rd wr count sel) = rd := by
  rw [cmdRd, getLsbD_encodeC1]; simp [Config.cmdRdBit]

@[simp] theorem cmdWr_encodeC1 (rd wr : Bool) (count : BitVec 2) (sel : DriveIx) :
    cmdWr (encodeC1 rd wr count sel) = wr := by
  rw [cmdWr, getLsbD_encodeC1]; simp [Config.cmdWrBit]

@[simp] theorem cmdCount_encodeC1 (rd wr : Bool) (count : BitVec 2) (sel : DriveIx) :
    cmdCount (encodeC1 rd wr count sel) = count := by
  apply BitVec.eq_of_getLsbD_eq
  intro i hi
  rw [cmdCount, BitVec.getLsbD_extractLsb', getLsbD_encodeC1]
  interval_cases i <;> simp [Config.cmdCountLow]

@[simp] theorem cmdSel_encodeC1 (rd wr : Bool) (count : BitVec 2) (sel : DriveIx) :
    cmdSel (encodeC1 rd wr count sel) = sel := by
  apply BitVec.eq_of_getLsbD_eq
  intro i hi
  rw [cmdSel, BitVec.getLsbD_extractLsb', getLsbD_encodeC1]
  interval_cases i <;> simp [Config.cmdSelLow]

/-- Masking a byte with an encoded mask is masking its fields one by one. -/
theorem and_encodeC1 (c : Byte) (rd wr : Bool) (count : BitVec 2) (sel : DriveIx) :
    c &&& encodeC1 rd wr count sel =
      encodeC1 (cmdRd c && rd) (cmdWr c && wr) (cmdCount c &&& count) (cmdSel c &&& sel) := by
  apply BitVec.eq_of_getLsbD_eq
  intro i hi
  rw [BitVec.getLsbD_and, getLsbD_encodeC1, getLsbD_encodeC1]
  interval_cases i <;>
    simp [cmdRd, cmdWr, cmdCount, cmdSel, Config.cmdRdBit, Config.cmdWrBit, Config.cmdCountLow, Config.cmdSelLow]

/-! ## Decoding, flag by flag -/

theorem decodeCommand_of_rd {c1 : Byte} (h : cmdRd c1 = true) (c2 : Byte) :
    decodeCommand c1 c2 = .rdtrk (cmdSel c1) (cmdCount c1) c2 := if_pos h

theorem decodeCommand_of_wr {c1 : Byte} (hrd : cmdRd c1 = false) (hwr : cmdWr c1 = true) (c2 : Byte) :
    decodeCommand c1 c2 = .wrtrk (cmdSel c1) (cmdCount c1) c2 := by
  simp [decodeCommand, hrd, hwr]

theorem decodeCommand_of_noFlag {c1 : Byte} (hrd : cmdRd c1 = false) (hwr : cmdWr c1 = false) (c2 : Byte) :
    decodeCommand c1 c2 = .idle (cmdCount c1) := by
  simp [decodeCommand, hrd, hwr]

theorem decode_pair (c1 c2 : Byte) : decode [c1, c2] = .ok (decodeCommand c1 c2) := rfl

/-! ## The round trips -/

/-- Settles O3: the three commands by the fields of their encoded byte; no other instruction has an encoding. -/
theorem decodeEncodeAgree : Obligations.DecodeEncodeAgree := by
  intro i bs h
  cases i with
  | rdtrk sel count t =>
    cases h
    rw [decode_pair, decodeCommand_of_rd (cmdRd_encodeC1 ..), cmdSel_encodeC1, cmdCount_encodeC1]
  | wrtrk sel count t =>
    cases h
    rw [decode_pair, decodeCommand_of_wr (cmdRd_encodeC1 ..) (cmdWr_encodeC1 ..), cmdSel_encodeC1, cmdCount_encodeC1]
  | idle count =>
    cases h
    rw [decode_pair, decodeCommand_of_noFlag (cmdRd_encodeC1 ..) (cmdWr_encodeC1 ..), cmdCount_encodeC1]
  | _ => cases h

/-- A command that reads keeps COUNT, SEL and the RD flag of its byte. -/
theorem encode_decodeCommand_of_rd {c1 : Byte} (h : cmdRd c1 = true) (c2 : Byte) :
    encode (decodeCommand c1 c2) = some [c1 &&& 0xF1, c2] := by
  have kept : c1 &&& 0xF1 = encodeC1 true false (cmdCount c1) (cmdSel c1) := by
    rw [show (0xF1 : Byte) = encodeC1 true false (BitVec.allOnes 2) (BitVec.allOnes 2) by decide, and_encodeC1, h]
    simp only [BitVec.and_allOnes, Bool.and_true, Bool.and_false]
  rw [decodeCommand_of_rd h, kept]; rfl

theorem encode_decodeCommand_of_wr {c1 : Byte} (hrd : cmdRd c1 = false) (hwr : cmdWr c1 = true) (c2 : Byte) :
    encode (decodeCommand c1 c2) = some [c1 &&& 0xF2, c2] := by
  have kept : c1 &&& 0xF2 = encodeC1 false true (cmdCount c1) (cmdSel c1) := by
    rw [show (0xF2 : Byte) = encodeC1 false true (BitVec.allOnes 2) (BitVec.allOnes 2) by decide, and_encodeC1, hwr]
    simp only [BitVec.and_allOnes, Bool.and_true, Bool.and_false]
  rw [decodeCommand_of_wr hrd hwr, kept]; rfl

theorem encode_decodeCommand_of_noFlag {c1 : Byte} (hrd : cmdRd c1 = false) (hwr : cmdWr c1 = false) (c2 : Byte) :
    encode (decodeCommand c1 c2) = some [c1 &&& 0x30, 0] := by
  have kept : c1 &&& 0x30 = encodeC1 false false (cmdCount c1) 0 := by
    rw [show (0x30 : Byte) = encodeC1 false false (BitVec.allOnes 2) 0 by decide, and_encodeC1]
    simp only [BitVec.and_allOnes, Bool.and_false, show cmdSel c1 &&& 0 = 0 from BitVec.and_zero]
  rw [decodeCommand_of_noFlag hrd hwr, kept]; rfl

/-- Settles O4, flag by flag: the fields an instruction keeps are the mask its byte is cleared with. -/
theorem encodeDecodeClearsIgnoredBits : Obligations.EncodeDecodeClearsIgnoredBits := by
  intro c1 c2 i h
  cases h
  show encode (decodeCommand c1 c2) =
    some (if cmdRd c1 then [c1 &&& 0xF1, c2] else if cmdWr c1 then [c1 &&& 0xF2, c2] else [c1 &&& 0x30, 0])
  split_ifs with hrd hwr
  · exact encode_decodeCommand_of_rd hrd c2
  · exact encode_decodeCommand_of_wr (by simpa using hrd) hwr c2
  · exact encode_decodeCommand_of_noFlag (by simpa using hrd) (by simpa using hwr) c2

/-! ## Command words -/

/-- Settles O1: the decoder's tests and fields stand at the positions of R91. -/
theorem commandBytesDecode : Obligations.CommandBytesDecode := fun _ c2 =>
  ⟨fun hrd => congrArg Except.ok (decodeCommand_of_rd hrd c2),
    fun hrd hwr => congrArg Except.ok (decodeCommand_of_wr hrd hwr c2),
    fun hrd hwr => congrArg Except.ok (decodeCommand_of_noFlag hrd hwr c2)⟩

/-- Settles O2 by evaluating the decoder on the six words of V41. -/
theorem commandWordExamples : Obligations.CommandWordExamples := by
  unfold Obligations.CommandWordExamples; decide

end Sys2Proof
end

section
/-! SUPPORT. Operand forms: the sync words that are substituted, and where each drive's flags stand in the status byte.
R26, R97, R106, R173. -/

namespace Sys2Proof.Machine

/-- Settles O37: the list of buggy syncs, member by member. -/
theorem syncSubstitution : Obligations.SyncSubstitution := by
  intro w
  simp only [substituteSync, Config.buggySyncs, Config.syncCanon, List.mem_cons, List.not_mem_nil, or_false]

/-- A status whose reserved bits are 0 is a present flag in bit 0 and a writable flag in bit 4 (R26). -/
theorem status_flags {status : Byte} (h : status &&& 0xEE = 0) :
    ∃ present writable : Bool, ∀ i, status.getLsbD i = (decide (i = 0) && present || decide (i = 4) && writable) := by
  refine ⟨status.getLsbD 0, status.getLsbD 4, fun i => ?_⟩
  by_cases hi : i < 8
  · have bit : (status.getLsbD i && (0xEE : Byte).getLsbD i) = false := by rw [← BitVec.getLsbD_and, h]; simp
    revert bit; interval_cases i <;> simp
  · rw [BitVec.getLsbD_of_ge _ _ (not_lt.1 hi)]
    simp; omega

/-- Bit n of the status byte is bit n - k of drive k's status, any k (R97). -/
theorem getLsbD_statusReport (df : Quad DriveState) {n : Nat} (hn : n < 8) :
    (statusReport df).getLsbD n =
      (df.q0.status.getLsbD n || decide (1 ≤ n) && df.q1.status.getLsbD (n - 1) ||
        decide (2 ≤ n) && df.q2.status.getLsbD (n - 2) || decide (3 ≤ n) && df.q3.status.getLsbD (n - 3)) := by
  simp only [statusReport, BitVec.getLsbD_or, BitVec.getLsbD_shiftLeft, hn, decide_true, Bool.true_and,
    ← decide_not, not_lt]

/-- Settles O16: the other three drives' statuses come to bits d and 4 + d with reserved bits, which are 0. -/
theorem statusByteBits : Obligations.StatusByteBits := by
  intro df hres d
  obtain ⟨p0, w0, h0⟩ : ∃ p w, ∀ i, df.q0.status.getLsbD i = _ := status_flags (hres 0)
  obtain ⟨p1, w1, h1⟩ : ∃ p w, ∀ i, df.q1.status.getLsbD i = _ := status_flags (hres 1)
  obtain ⟨p2, w2, h2⟩ : ∃ p w, ∀ i, df.q2.status.getLsbD i = _ := status_flags (hres 2)
  obtain ⟨p3, w3, h3⟩ : ∃ p w, ∀ i, df.q3.status.getLsbD i = _ := status_flags (hres 3)
  have hd : d.toNat < 4 := d.isLt
  have cases : d = 0 ∨ d = 1 ∨ d = 2 ∨ d = 3 := by revert d; decide
  rw [getLsbD_statusReport df (by omega), getLsbD_statusReport df (by omega)]
  simp only [h0, h1, h2, h3]
  rcases cases with rfl | rfl | rfl | rfl
  · rw [show df.get 0 = df.q0 from rfl, h0, h0]; simp
  · rw [show df.get 1 = df.q1 from rfl, h1, h1]; simp
  · rw [show df.get 2 = df.q2 from rfl, h2, h2]; simp
  · rw [show df.get 3 = df.q3 from rfl, h3, h3]; simp

end Sys2Proof.Machine
end

section
/-! SUPPORT. The sector as sent: the checksum lanes as columns, the lengths, and the layout field by field. R100 to
R103, R132 to R136. -/

namespace Sys2Proof.Machine

/-! ## Lanes as columns -/

/-- A byte put at the end of a list goes into the lane of its index (R132). -/
theorem laneOf_concat (bs : List Byte) (x : Byte) (k : Nat) :
    laneOf (bs ++ [x]) k = if bs.length % 4 = k then laneOf bs k ^^^ x else laneOf bs k := by
  have before : ∀ (is : List Nat) (acc : Byte), (∀ i ∈ is, i < bs.length) →
      is.foldl (fun acc i => acc ^^^ (bs ++ [x]).getD i 0) acc = is.foldl (fun acc i => acc ^^^ bs.getD i 0) acc := by
    intro is acc his
    apply List.foldl_ext
    intro acc i hi
    simp [List.getD_eq_getElem?_getD, List.getElem?_append_left (his i hi)]
  have inRange : ∀ i ∈ (List.range bs.length).filter (fun i => decide (i % 4 = k)), i < bs.length := by
    intro i hi; simpa using (List.mem_filter.1 hi).1
  unfold laneOf
  rw [List.length_append, List.length_singleton, List.range_succ, List.filter_append, List.foldl_append,
    before _ _ inRange]
  split
  · next h => simp [h]
  · next h => simp [h]

theorem lanesOf_concat (bs : List Byte) (x : Byte) :
    lanesOf (bs ++ [x]) =
      (lanesOf bs).set (BitVec.ofNat 2 bs.length) ((lanesOf bs).get (BitVec.ofNat 2 bs.length) ^^^ x) := by
  have lane : BitVec.ofNat 2 bs.length = BitVec.ofNat 2 (bs.length % 4) := by
    apply BitVec.eq_of_toNat_eq; simp
  have hlt : bs.length % 4 < 4 := Nat.mod_lt _ (by decide)
  simp only [lanesOf, laneOf_concat, lane]
  interval_cases bs.length % 4 <;> rfl

/-- The fold puts each byte into the lane of its index: the lanes are the columns (R132). -/
theorem foldLanes_eq_lanesOf (bs : List Byte) : foldLanes (Quad.fill 0) 0 bs = lanesOf bs := by
  induction bs using List.reverseRecOn with
  | nil => rfl
  | append_singleton bs x ih => rw [foldLanes_append, ih, lanesOf_concat, Nat.zero_add]; rfl

/-! ## Lengths -/

@[simp] theorem checksumField_length (q : Quad Byte) : (checksumField q).length = 8 := by simp [checksumField]

@[simp] theorem sectorHeader_length (buf : Block) (s : BitVec 4) (t : Byte) (sync : Word16) :
    (sectorHeader buf s t sync).length = 64 := by simp [sectorHeader, wordBytes]

@[simp] theorem sectorPayload_length (buf : Block) : (sectorPayload buf).length = 1024 := by simp [sectorPayload]

@[simp] theorem sectorBytes_length (buf : Block) (s : BitVec 4) (t : Byte) (sync : Word16) :
    (sectorBytes buf s t sync).length = 1088 := by simp [sectorBytes]

@[simp] theorem gapBytes_length : gapBytes.length = 700 := List.length_replicate

theorem gapBytes_eq : gapBytes = List.replicate 700 0xAA := rfl

/-! ## The layout -/

/-- Header info of a sector 0 to 10, the sector and the count of sectors to the gap as bytes (R102). -/
theorem headerInfo_eq {s : BitVec 4} (hs : s ≤ 10) (t : Byte) :
    headerInfo s t = ⟨0xFF, t, BitVec.ofNat 8 s.toNat, BitVec.ofNat 8 (11 - s.toNat)⟩ := by
  have hn : s.toNat ≤ 10 := hs
  have sector : s.setWidth 8 = BitVec.ofNat 8 s.toNat := BitVec.eq_of_toNat_eq (by simp)
  have toGap : 11 - s.setWidth 8 = BitVec.ofNat 8 (11 - s.toNat) := by
    apply BitVec.eq_of_toNat_eq
    simp [BitVec.toNat_sub]; omega
  rw [headerInfo, toGap, sector]; rfl

/-- The header's odd half as sent (R100, R102); the marker's is 0x55. -/
theorem headerInfo_odd {s : BitVec 4} (hs : s ≤ 10) (t : Byte) :
    ((headerInfo s t).map odd).toList =
      [(0x55 : Byte), (t >>> 1) &&& 0x55, (BitVec.ofNat 8 s.toNat >>> 1) &&& 0x55,
        (BitVec.ofNat 8 (11 - s.toNat) >>> 1) &&& 0x55] := by
  have marker : odd 0xFF = 0x55 := by decide
  rw [headerInfo_eq hs, Quad.map, marker]; rfl

theorem headerInfo_even {s : BitVec 4} (hs : s ≤ 10) (t : Byte) :
    ((headerInfo s t).map even).toList =
      [(0x55 : Byte), t &&& 0x55, BitVec.ofNat 8 s.toNat &&& 0x55, BitVec.ofNat 8 (11 - s.toNat) &&& 0x55] := by
  have marker : even 0xFF = 0x55 := by decide
  rw [headerInfo_eq hs, Quad.map, marker]; rfl

/-- The header's checksum as sent (R103, R134). -/
theorem headerLanes_sent {s : BitVec 4} (hs : s ≤ 10) (t : Byte) :
    ((headerLanes s t).map (· ||| Config.fill)).toList =
      [(0xFF : Byte), t, BitVec.ofNat 8 s.toNat, BitVec.ofNat 8 (11 - s.toNat)].map fun v : Byte =>
        (((v >>> 1) &&& 0x55) ^^^ (v &&& 0x55)) ||| 0xAA := by
  rw [headerLanes, headerInfo_eq hs]; rfl

/-- The data checksum as sent, from the columns of `x ^ (x >> 1)` (R103, R135). -/
theorem dataLanes_sent (buf : Block) :
    ((dataLanes buf).map (· ||| Config.fill)).toList =
      [0, 1, 2, 3].map fun k => laneOf (buf.bytes.map fun x : Byte => x ^^^ (x >>> 1)) k ||| 0xAA := by
  rw [dataLanes, foldLanes_eq_lanesOf]; rfl

/-- Settles O24, field by field. -/
theorem sectorLayout : Obligations.SectorLayout := by
  intro buf s t sync hs
  refine ⟨sectorBytes_length buf s t sync, ?_⟩
  have syncTwice : wordBytes sync ++ wordBytes sync =
      [sync.extractLsb' 8 8, sync.extractLsb' 0 8, sync.extractLsb' 8 8, sync.extractLsb' 0 8] := rfl
  rw [← syncTwice, ← headerInfo_odd hs, ← headerInfo_even hs, ← headerLanes_sent hs, ← dataLanes_sent]
  simp only [sectorBytes, sectorHeader, sectorPayload, checksumField, Config.fill, List.append_assoc]

end Sys2Proof.Machine
end

section
/-! SUPPORT. A revolution of READ_TRACK: two steps serve one sector and move on, eleven sectors and the gap are a track.
R101, R172 to R175. -/

namespace Sys2Proof.Machine

/-! ## Runs -/

/-- Two runs one after the other are one run. -/
theorem run_add {M : Host.Core} {m n : Nat} {s t u : M.State} (h : M.run m s = .next t) (h' : M.run n t = .next u) :
    M.run (m + n) s = .next u := by
  induction m generalizing s with
  | zero => cases h; rwa [Nat.zero_add]
  | succ m ih =>
    obtain ⟨v, hv, h⟩ := run_succ_next h
    rw [show m + 1 + n = m + n + 1 by omega, Host.Core.run, hv]
    exact ih h

theorem run_two {s t u : State} (h : step s = .next t) (h' : step t = .next u) :
    Sys2Proof.core.run 2 s = .next u := by
  have first : Sys2Proof.core.step s = .next t := h
  have second : Sys2Proof.core.step t = .next u := h'
  simp only [Host.Core.run, first, second]

/-! ## What was sent -/

@[simp] theorem sentBytes_append (l m : List PortEvent) : sentBytes (l ++ m) = sentBytes l ++ sentBytes m := by
  induction l with
  | nil => rfl
  | cons e l ih =>
    cases e with
    | xfer tx rx => cases rx <;> simp [sentBytes, ih]
    | _ => exact ih

@[simp] theorem sentBytes_sendEvents (bs : List Byte) : sentBytes (sendEvents bs) = bs := by
  induction bs with
  | nil => rfl
  | cons b bs ih => exact congrArg (b :: ·) ih

@[simp] theorem sentBytes_recvEvents (bs : List Byte) : sentBytes (recvEvents bs) = [] := by
  induction bs with
  | nil => rfl
  | cons b bs ih => exact ih

/-- From s to t the engine sent these bytes, whatever else it did, and changed no image byte. -/
structure Sends (s t : State) (bs : List Byte) : Prop where
  images : SameImages s t
  sent : ∃ evs, t.trace = s.trace ++ evs ∧ sentBytes evs = bs

theorem Sends.nothing (s : State) : Sends s s [] := ⟨fun _ _ => rfl, [], by simp, rfl⟩

theorem Sends.trans {s t u : State} {bs bs' : List Byte} (h : Sends s t bs) (h' : Sends t u bs') :
    Sends s u (bs ++ bs') := by
  obtain ⟨evs, ht, rfl⟩ := h.sent
  obtain ⟨evs', hu, rfl⟩ := h'.sent
  exact ⟨h.images.trans h'.images, evs ++ evs', by rw [hu, ht, List.append_assoc], sentBytes_append _ _⟩

/-- A block reads the same where the image does. -/
theorem SameImages.readCells_eq {s t : State} (h : SameImages s t) (k : Handle) (off : Nat) :
    readCells (fileAt t.store k).cells off = readCells (fileAt s.store k).cells off := by
  have cells : ∀ a, cellAt (fileAt t.store k).cells a = cellAt (fileAt s.store k).cells a := h k
  simp only [readCells, cells]

/-! ## One sector -/

/-- READ_TRACK about to serve sector k of track tr, its file's cursor at that sector, with a STORE answer of ok for
every event until the track starts again (eleven reads and a seek). -/
structure State.AtSector (h : Handle) (tr : Byte) (k : Nat) (s : State) : Prop where
  link_free : s.linkSelected = false
  in_loop : s.ctl = .rdLoop
  sector_eq : s.sector = BitVec.ofNat 4 k
  present : (s.drive s.sel).present = true
  file_eq : (s.drive s.sel).file = some h
  track_eq : (s.drive s.sel).track = tr
  on_image : tr < (s.drive s.sel).tracks
  cursor_eq : (fileAt s.store h).cursor = tr.toNat * 5632 + k * 512
  fits : tr.toNat * 5632 + 5632 ≤ (fileAt s.store h).size
  answers : 12 ≤ s.storeIn.length + k
  answers_ok : ∀ a ∈ s.storeIn, a.ok = true

/-- A live-state record that asks to read track tr (R95). -/
structure AsksFor (tr : Byte) (live : List Byte) : Prop where
  length_eq : live.length = 6
  rd : (live.getD 0 0).getLsbD 0 = true
  track_eq : live.getD 1 0 = tr

/-- Sector k of track tr of the image, under the sync the record asks for, as sent. -/
def imageSector (s : State) (h : Handle) (tr : Byte) (k : Nat) (live : List Byte) : List Byte :=
  sectorBytes (readCells (fileAt s.store h).cells (tr.toNat * 5632 + k * 512)) (BitVec.ofNat 4 k) tr
    (substituteSync (live.getD 2 0 ++ live.getD 3 0))

theorem SameImages.imageSector_eq {s t : State} (h : SameImages s t) (k : Handle) (tr : Byte) (sec : Nat)
    (live : List Byte) : imageSector t k tr sec live = imageSector s k tr sec live := by
  rw [imageSector, h.readCells_eq]; rfl

theorem clampTrack_of_lt {t n : Byte} (h : t < n) : clampTrack t n = t := by
  have hn : n ≠ 0 := by rintro rfl; exact absurd (BitVec.lt_def.1 h) (Nat.not_lt_zero _)
  rw [clampTrack, if_neg hn, if_pos h]

theorem received_of_append {s : State} {n : Nat} {bs rest : List Byte} (hin : s.linkIn = bs ++ rest)
    (hn : bs.length = n) : received n s = bs := by
  rw [received_of_le (by rw [hin, List.length_append]; omega), hin, ← hn, List.take_left]

theorem execReadTrack_of_rdLoop {d : DriveIx} {h : Handle} {s : State} (hlink : s.linkSelected = false)
    (hi : s.image? d = some h) (hc : s.ctl = .rdLoop) (hsec : s.sector ≤ 10) :
    execReadTrack d s = .next (readServe d (readPoll d h s)) := by
  have inRange : ¬Config.lastSector < s.sector := BitVec.not_lt.2 hsec
  simp [execReadTrack, hlink, hi, hc, inRange]

theorem execReadTrack_of_rdNext {d : DriveIx} {h : Handle} {s : State} (hlink : s.linkSelected = false)
    (hi : s.image? d = some h) (hc : s.ctl = .rdNext) : execReadTrack d s = .next (readNext d h s) := by
  simp [execReadTrack, hlink, hi, hc]

/-- A transition of READ_TRACK that stays in the reader is the step itself (R238). -/
theorem step_of_execReadTrack {s t : State} (hr : s.ctl.reading = true) (h : execReadTrack s.sel s = .next t)
    (ht : t.ctl ≠ .idle) : step s = .next t := by
  have hx : exec (.readTrack s.sel) s = .next t := h
  rw [step_of_reading hr, hx]
  exact congrArg Host.Outcome.next (bracketed_of_ne ht)

/-- The decision of RD_NEXT is the one RD_LOOP has just made (R172, R174). -/
@[simp] theorem wantsTrack_readServe (d : DriveIx) (s : State) : wantsTrack d (readServe d s) = wantsTrack d s := by
  rw [readServe_eq]; rfl

@[simp] theorem readServe_df (d : DriveIx) (s : State) : (readServe d s).df = s.df := by rw [readServe_eq]

@[simp] theorem readServe_sel (d : DriveIx) (s : State) : (readServe d s).sel = s.sel := by rw [readServe_eq]

@[simp] theorem readServe_sector (d : DriveIx) (s : State) : (readServe d s).sector = s.sector := by rw [readServe_eq]

@[simp] theorem readServe_store (d : DriveIx) (s : State) : (readServe d s).store = s.store := by rw [readServe_eq]

@[simp] theorem readServe_linkIn (d : DriveIx) (s : State) : (readServe d s).linkIn = s.linkIn := by rw [readServe_eq]

@[simp] theorem readServe_storeIn (d : DriveIx) (s : State) : (readServe d s).storeIn = s.storeIn := by
  rw [readServe_eq]

@[simp] theorem openData_lsTrack (s : State) : (openData s).lsTrack = byteAt (received 6 s) 1 := rfl

@[simp] theorem openData_lsSync (s : State) :
    (openData s).lsSync = byteAt (received 6 s) 2 ++ byteAt (received 6 s) 3 := by
  rw [← wordOf_eq_append]; rfl

/-! The fields RD_LOOP has set when it decides (R172, R173). -/

section Poll

variable (d : DriveIx) (h : Handle) (s : State)

@[simp] theorem readPoll_df : (readPoll d h s).df = s.df := by simp [readPoll]

@[simp] theorem readPoll_sel : (readPoll d h s).sel = s.sel := by simp [readPoll]

@[simp] theorem readPoll_sector : (readPoll d h s).sector = s.sector := by simp [readPoll]

@[simp] theorem readPoll_buf : (readPoll d h s).buf = readData h s := by simp [readPoll]

@[simp] theorem readPoll_lt :
    (readPoll d h s).lt = clampTrack (byteAt (received 6 (fillBuffer d h s)) 1) (s.drive d).tracks := by
  simp [readPoll, State.drive]

@[simp] theorem readPoll_sync :
    (readPoll d h s).sync =
      substituteSync (byteAt (received 6 (fillBuffer d h s)) 2 ++ byteAt (received 6 (fillBuffer d h s)) 3) := by
  simp [readPoll]

@[simp] theorem readPoll_store : (readPoll d h s).store = (storeRead d h s).store := by simp [readPoll]

@[simp] theorem readPoll_storeIn : (readPoll d h s).storeIn = s.storeIn.tail := by simp [readPoll]

@[simp] theorem readPoll_linkIn : (readPoll d h s).linkIn = s.linkIn.drop 6 := by simp [readPoll]

theorem readPoll_trace :
    (readPoll d h s).trace = s.trace ++ [.storeRead d (fileAt s.store h).cursor (accessOk h s), .linkSelect] ++
      recvEvents (received 6 (fillBuffer d h s)) := by
  simp [readPoll]

end Poll

/-! The advance (R175): what both its branches do, then each branch. -/

section Advance

variable (d : DriveIx) (h : Handle) (s : State)

@[simp] theorem readAdvance_ctl : (readAdvance d h s).ctl = .rdLoop := by
  unfold readAdvance; split <;> rfl

@[simp] theorem readAdvance_sel : (readAdvance d h s).sel = s.sel := by
  unfold readAdvance; split <;> rfl

@[simp] theorem readAdvance_linkSelected : (readAdvance d h s).linkSelected = s.linkSelected := by
  unfold readAdvance; split <;> rfl

@[simp] theorem readAdvance_linkIn : (readAdvance d h s).linkIn = s.linkIn := by
  unfold readAdvance; split <;> rfl

theorem readAdvance_drive : ∃ sec, (readAdvance d h s).drive d = { s.drive d with sectorOffset := sec } := by
  unfold readAdvance
  split
  · exact ⟨0, drive_setDrive_self d _ _⟩
  · exact ⟨s.sector + 1, drive_setDrive_self d _ _⟩

/-- The advance sends nothing: its only port event is the wrap's seek. -/
theorem readAdvance_sends : Sends s (readAdvance d h s) [] := by
  unfold readAdvance
  split
  · exact ⟨imageByte_storeSeek d h _ s, _, rfl, rfl⟩
  · exact ⟨fun _ _ => rfl, [], (List.append_nil _).symm, rfl⟩

variable {s}

theorem readAdvance_sector_of_ne (hsec : s.sector + 1 ≠ 11) : (readAdvance d h s).sector = s.sector + 1 := by
  rw [readAdvance, if_neg hsec]; rfl

theorem readAdvance_store_of_ne (hsec : s.sector + 1 ≠ 11) : (readAdvance d h s).store = s.store := by
  rw [readAdvance, if_neg hsec]; rfl

theorem readAdvance_storeIn_of_ne (hsec : s.sector + 1 ≠ 11) : (readAdvance d h s).storeIn = s.storeIn := by
  rw [readAdvance, if_neg hsec]; rfl

theorem readAdvance_sector_of_eq (hsec : s.sector + 1 = 11) : (readAdvance d h s).sector = 0 := by
  rw [readAdvance, if_pos hsec]; rfl

theorem readAdvance_store_of_eq (hsec : s.sector + 1 = 11) :
    (readAdvance d h s).store = (storeSeek d h (byteOffset (s.drive d).track.toNat 0) s).store := by
  rw [readAdvance, if_pos hsec]; rfl

end Advance

section Sector

variable {h : Handle} {tr : Byte} {k : Nat} {s : State} {live rest : List Byte}

theorem State.AtSector.image?_eq (hs : s.AtSector h tr k) : s.image? s.sel = some h :=
  image?_eq_some hs.present hs.file_eq

theorem State.AtSector.nextAnswer_ok (hs : s.AtSector h tr k) (hk : k ≤ 10) : (nextAnswer s).ok = true := by
  cases hq : s.storeIn with
  | nil => have := hs.answers; simp [hq] at this; omega
  | cons a rest => rw [nextAnswer_cons hq]; exact hs.answers_ok a (by simp [hq])

/-- The block of a sector of a whole track is there to be read (R71, R285). -/
theorem State.AtSector.accessOk_eq (hs : s.AtSector h tr k) (hk : k ≤ 10) : accessOk h s = true := by
  have serves : (fileAt s.store h).serves = true := by
    have := hs.fits
    simp only [StoreFile.serves, hs.cursor_eq, Bool.and_eq_true, decide_eq_true_eq]
    omega
  rw [accessOk, hs.nextAnswer_ok hk, serves]; rfl

theorem State.AtSector.received_eq (hin : s.linkIn = live ++ rest) (hlive : AsksFor tr live) :
    received 6 (fillBuffer s.sel h s) = live :=
  received_of_append (rest := rest) hin hlive.length_eq

/-- The controller's record, its track clamped to itself, asks for the sector. -/
theorem State.AtSector.wantsTrack_eq (hs : s.AtSector h tr k) (hin : s.linkIn = live ++ rest)
    (hlive : AsksFor tr live) : wantsTrack s.sel (readPoll s.sel h s) = true := by
  have hrd : cmdRd (byteAt live 0) = true := hlive.rd
  have hclamp : clampTrack (byteAt live 1) (s.drive s.sel).tracks = (s.drive s.sel).track := by
    rw [show byteAt live 1 = tr from hlive.track_eq, clampTrack_of_lt hs.on_image, hs.track_eq]
  rw [wantsTrack_readPoll, State.AtSector.received_eq hin hlive, hclamp, hrd, decide_eq_true rfl]; rfl

/-- What goes out is the image's sector, after sector 10 with the gap (R172). -/
theorem State.AtSector.servedBytes_eq (hs : s.AtSector h tr k) (hk : k ≤ 10) (hin : s.linkIn = live ++ rest)
    (hlive : AsksFor tr live) :
    servedBytes (readPoll s.sel h s) = imageSector s h tr k live ++ if k = 10 then gapBytes else [] := by
  have hrecv : received 6 (fillBuffer s.sel h s) = live := State.AtSector.received_eq hin hlive
  have hbuf : readData h s = readCells (fileAt s.store h).cells (tr.toNat * 5632 + k * 512) := by
    rw [readData, if_pos (hs.accessOk_eq hk), hs.cursor_eq]
  have hlt : clampTrack (byteAt live 1) (s.drive s.sel).tracks = tr := by
    rw [show byteAt live 1 = tr from hlive.track_eq, clampTrack_of_lt hs.on_image]
  have hlast : BitVec.ofNat 4 k = Config.lastSector ↔ k = 10 := by
    interval_cases k <;> decide
  rw [servedBytes, readPoll_buf, readPoll_sector, readPoll_lt, readPoll_sync, hrecv, hbuf, hlt, hs.sector_eq]
  simp only [hlast, imageSector, byteAt]

/-- The state after the sector of `s` was sent, before the advance. -/
def State.served (s : State) (h : Handle) : State := readServe s.sel (readPoll s.sel h s)

/-- The state after the sector of `s` was sent and READ_TRACK has advanced. -/
def State.advanced (s : State) (h : Handle) : State := readAdvance s.sel h (s.served h)

@[simp] theorem State.served_sel (s : State) (h : Handle) : (s.served h).sel = s.sel := by
  rw [State.served, readServe_sel, readPoll_sel]

@[simp] theorem State.served_df (s : State) (h : Handle) : (s.served h).df = s.df := by
  rw [State.served, readServe_df, readPoll_df]

@[simp] theorem State.served_drive (s : State) (h : Handle) (d : DriveIx) : (s.served h).drive d = s.drive d :=
  congrArg (Quad.get · d) (s.served_df h)

@[simp] theorem State.served_sector (s : State) (h : Handle) : (s.served h).sector = s.sector := by
  rw [State.served, readServe_sector, readPoll_sector]

@[simp] theorem State.served_storeIn (s : State) (h : Handle) : (s.served h).storeIn = s.storeIn.tail := by
  rw [State.served, readServe_storeIn, readPoll_storeIn]

@[simp] theorem State.served_store (s : State) (h : Handle) : (s.served h).store = (storeRead s.sel h s).store := by
  rw [State.served, readServe_store, readPoll_store]

@[simp] theorem State.served_linkIn (s : State) (h : Handle) : (s.served h).linkIn = s.linkIn.drop 6 := by
  rw [State.served, readServe_linkIn, readPoll_linkIn]

theorem State.AtSector.run_eq (hs : s.AtSector h tr k) (hk : k ≤ 10) (hin : s.linkIn = live ++ rest)
    (hlive : AsksFor tr live) : Sys2Proof.core.run 2 s = .next (s.advanced h) := by
  have hsec : s.sector ≤ 10 := by rw [hs.sector_eq]; interval_cases k <;> decide
  have himage : (s.served h).image? s.sel = some h := by
    rw [← hs.image?_eq, State.image?, State.image?, s.served_drive]
  have hwants : wantsTrack s.sel (s.served h) = true := by
    rw [State.served, wantsTrack_readServe]; exact hs.wantsTrack_eq hin hlive
  have hnext : readNext s.sel h (s.served h) = s.advanced h := if_pos hwants
  have hctl : (s.advanced h).ctl = .rdLoop := by
    unfold State.advanced readAdvance; split <;> rfl
  refine run_two (t := s.served h) ?_ ?_
  · exact step_of_execReadTrack (by rw [hs.in_loop]; rfl)
      (execReadTrack_of_rdLoop hs.link_free hs.image?_eq hs.in_loop hsec) (by simp [State.served, readServe])
  · refine step_of_execReadTrack rfl ?_ (by simp [hctl])
    rw [s.served_sel, execReadTrack_of_rdNext rfl himage rfl, hnext]

theorem State.AtSector.served_sends (hs : s.AtSector h tr k) (hk : k ≤ 10) (hin : s.linkIn = live ++ rest)
    (hlive : AsksFor tr live) :
    Sends s (s.served h) (imageSector s h tr k live ++ if k = 10 then gapBytes else []) := by
  refine ⟨fun a b => ?_, [.storeRead s.sel (fileAt s.store h).cursor (accessOk h s), .linkSelect] ++
    recvEvents (received 6 (fillBuffer s.sel h s)) ++ sendEvents (servedBytes (readPoll s.sel h s)) ++
    [.linkDeselect], ?_, ?_⟩
  · rw [← imageByte_storeRead s.sel h s, imageByte, s.served_store]; rfl
  · rw [State.served, readServe_eq, if_pos (hs.wantsTrack_eq hin hlive), readPoll_trace]
    simp only [List.append_assoc]
  · rw [hs.servedBytes_eq hk hin hlive]
    simp [sentBytes]

theorem State.advanced_linkIn (s : State) (h : Handle) : (s.advanced h).linkIn = s.linkIn.drop 6 := by
  rw [State.advanced, readAdvance_linkIn, State.served_linkIn]

/-- A good read moves the cursor on by a block and leaves the rest of its file (R64). -/
theorem State.AtSector.served_file (hs : s.AtSector h tr k) (hk : k ≤ 10) :
    fileAt (s.served h).store h =
      { fileAt s.store h with cursor := tr.toNat * 5632 + (k + 1) * 512 } := by
  have next : tr.toNat * 5632 + k * 512 + 512 = tr.toNat * 5632 + (k + 1) * 512 := by omega
  rw [s.served_store, fileAt_storeRead, if_pos rfl, if_pos (hs.accessOk_eq hk), hs.cursor_eq, next]

/-- Below sector 10 the next sector is about to be served (R175). -/
theorem State.AtSector.advanced_of_lt (hs : s.AtSector h tr k) (hk : k < 10) :
    (s.advanced h).AtSector h tr (k + 1) := by
  have hsec : (s.served h).sector + 1 = BitVec.ofNat 4 (k + 1) := by
    rw [s.served_sector, hs.sector_eq]; interval_cases k <;> rfl
  have hne : (s.served h).sector + 1 ≠ 11 := by rw [hsec]; interval_cases k <;> decide
  have hsel : (s.advanced h).sel = s.sel := by rw [State.advanced, readAdvance_sel, s.served_sel]
  obtain ⟨sec, hdrive⟩ : ∃ sec, (s.advanced h).drive s.sel = { s.drive s.sel with sectorOffset := sec } := by
    rw [← s.served_drive h]; exact readAdvance_drive s.sel h (s.served h)
  have hfile : fileAt (s.advanced h).store h = { fileAt s.store h with cursor := tr.toNat * 5632 + (k + 1) * 512 } := by
    rw [← hs.served_file (by omega), State.advanced, readAdvance_store_of_ne s.sel h hne]
  have hanswers : (s.advanced h).storeIn = s.storeIn.tail := by
    rw [State.advanced, readAdvance_storeIn_of_ne s.sel h hne, s.served_storeIn]
  exact {
    link_free := by rw [State.advanced, readAdvance_linkSelected, State.served, readServe_linkSelected]
    in_loop := readAdvance_ctl _ _ _
    sector_eq := by rw [State.advanced, readAdvance_sector_of_ne s.sel h hne, hsec]
    present := by rw [hsel, hdrive]; exact hs.present
    file_eq := by rw [hsel, hdrive]; exact hs.file_eq
    track_eq := by rw [hsel, hdrive]; exact hs.track_eq
    on_image := by rw [hsel, hdrive]; exact hs.on_image
    cursor_eq := by rw [hfile]
    fits := by rw [hfile]; exact hs.fits
    answers := by have := hs.answers; rw [hanswers, List.length_tail]; omega
    answers_ok := fun a ha => hs.answers_ok a (List.mem_of_mem_tail (hanswers ▸ ha)) }

/-- Of the twelve answers one is left for the wrap's seek. -/
theorem State.AtSector.served_nextAnswer_ok (hs : s.AtSector h tr 10) : (nextAnswer (s.served h)).ok = true := by
  have := hs.answers
  have hok := hs.answers_ok
  match hq : s.storeIn with
  | [] => simp [hq] at this
  | [_] => simp [hq] at this
  | _ :: a :: rest =>
    have htail : (s.served h).storeIn = a :: rest := by rw [s.served_storeIn, hq]; rfl
    rw [nextAnswer_cons htail]
    exact hok a (by simp [hq])

/-- After sector 10 READ_TRACK stands at sector 0 and the cursor at the track start (R175). -/
theorem State.AtSector.advanced_of_last (hs : s.AtSector h tr 10) :
    (s.advanced h).ctl = .rdLoop ∧ (s.advanced h).sector = 0 ∧
      (fileAt (s.advanced h).store h).cursor = tr.toNat * 5632 := by
  have heq : (s.served h).sector + 1 = 11 := by rw [s.served_sector, hs.sector_eq]; rfl
  have hoff : byteOffset tr.toNat 0 = tr.toNat * 5632 := by
    simp only [byteOffset, Config.sectorCount, Config.rawSector]; omega
  have hseek : seekOk h (tr.toNat * 5632) (s.served h) = true := by
    rw [seekOk, hs.served_nextAnswer_ok, hs.served_file le_rfl, Bool.true_and]
    exact decide_eq_true (Nat.le_of_add_right_le hs.fits)
  refine ⟨readAdvance_ctl _ _ _, readAdvance_sector_of_eq _ _ heq, ?_⟩
  rw [State.advanced, readAdvance_store_of_eq s.sel h heq, s.served_drive, hs.track_eq, hoff, fileAt_storeSeek,
    if_pos rfl, if_pos hseek]

/-- Two steps serve a sector: it goes out, its record is used up, and READ_TRACK has advanced. -/
theorem State.AtSector.serves (hs : s.AtSector h tr k) (hk : k ≤ 10) (hin : s.linkIn = live ++ rest)
    (hlive : AsksFor tr live) :
    Sys2Proof.core.run 2 s = .next (s.advanced h) ∧ (s.advanced h).linkIn = rest ∧
      Sends s (s.advanced h) (imageSector s h tr k live ++ if k = 10 then gapBytes else []) := by
  refine ⟨hs.run_eq hk hin hlive, ?_, ?_⟩
  · rw [s.advanced_linkIn, hin, ← hlive.length_eq, List.drop_left]
  · have sent := (hs.served_sends hk hin hlive).trans (readAdvance_sends s.sel h (s.served h))
    rwa [List.append_nil] at sent

end Sector

/-! ## The revolution -/

/-- The first n sectors of a track of the image, each under the sync its record asks for, as sent. -/
def imageSectors (s : State) (h : Handle) (tr : Byte) (recs : List (List Byte)) (n : Nat) : List Byte :=
  ((List.range n).map fun k => imageSector s h tr k (recs.getD k [])).flatten

theorem imageSectors_succ (s : State) (h : Handle) (tr : Byte) (recs : List (List Byte)) (n : Nat) :
    imageSectors s h tr recs (n + 1) = imageSectors s h tr recs n ++ imageSector s h tr n (recs.getD n []) := by
  simp [imageSectors, List.range_succ]

@[simp] theorem imageSectors_length (s : State) (h : Handle) (tr : Byte) (recs : List (List Byte)) (n : Nat) :
    (imageSectors s h tr recs n).length = n * 1088 := by
  induction n with
  | zero => simp [imageSectors]
  | succ n ih => rw [imageSectors_succ, List.length_append, ih, imageSector, sectorBytes_length, Nat.succ_mul]

section Revolution

variable {h : Handle} {tr : Byte} {s : State} {recs : List (List Byte)} {rest : List Byte}

/-- By induction on the sectors already sent. -/
theorem State.AtSector.serve_sectors (hs : s.AtSector h tr 0) (hrecs : ∀ r ∈ recs, AsksFor tr r)
    (hin : s.linkIn = recs.flatten ++ rest) {n : Nat} (hn : n ≤ 10) (hlen : n ≤ recs.length) :
    ∃ t, Sys2Proof.core.run (2 * n) s = .next t ∧ t.AtSector h tr n ∧ t.linkIn = (recs.drop n).flatten ++ rest ∧
      Sends s t (imageSectors s h tr recs n) := by
  induction n with
  | zero => exact ⟨s, rfl, hs, hin, .nothing s⟩
  | succ n ih =>
    obtain ⟨t, hrun, ht, htin, hsent⟩ := ih (by omega) (by omega)
    have hnext : t.linkIn = recs[n] ++ ((recs.drop (n + 1)).flatten ++ rest) := by
      rw [htin, List.drop_eq_getElem_cons hlen, List.flatten_cons, List.append_assoc]
    have hget : recs.getD n [] = recs[n] := List.getD_eq_getElem _ _ hlen
    obtain ⟨hrun', htin', hsent'⟩ := ht.serves (by omega) hnext (hrecs _ (List.getElem_mem hlen))
    refine ⟨t.advanced h, run_add hrun hrun', ht.advanced_of_lt (by omega), htin', ?_⟩
    rw [if_neg (by omega), List.append_nil, hsent.images.imageSector_eq] at hsent'
    rw [imageSectors_succ, hget]
    exact hsent.trans hsent'

/-- Eleven sectors and the gap, then the wrap. -/
theorem State.AtSector.serve_track (hs : s.AtSector h tr 0) (hrecs : ∀ r ∈ recs, AsksFor tr r)
    (hlen : recs.length = 11) (hin : s.linkIn = recs.flatten ++ rest) :
    ∃ t, Sys2Proof.core.run 22 s = .next t ∧ t.ctl = .rdLoop ∧ t.sector = 0 ∧ t.linkIn = rest ∧
      (fileAt t.store h).cursor = tr.toNat * 5632 ∧ Sends s t (imageSectors s h tr recs 11 ++ gapBytes) := by
  obtain ⟨t, hrun, ht, htin, hsent⟩ := hs.serve_sectors hrecs hin (n := 10) le_rfl (by omega)
  have hnext : t.linkIn = recs[10] ++ rest := by
    rw [htin, List.drop_eq_getElem_cons (by omega), List.drop_of_length_le (by omega)]; simp
  have hget : recs.getD 10 [] = recs[10] := List.getD_eq_getElem _ _ _
  obtain ⟨hrun', htin', hsent'⟩ := ht.serves le_rfl hnext (hrecs _ (List.getElem_mem _))
  obtain ⟨hctl, hsector, hcursor⟩ := ht.advanced_of_last
  refine ⟨t.advanced h, run_add hrun hrun', hctl, hsector, htin', hcursor, ?_⟩
  rw [if_pos rfl, hsent.images.imageSector_eq] at hsent'
  rw [imageSectors_succ, hget, List.append_assoc]
  exact hsent.trans hsent'

end Revolution

/-- Settles O36: the hypotheses put READ_TRACK at sector 0 of the track. -/
theorem revolutionSendsTrack : Obligations.RevolutionSendsTrack := by
  intro h s recs rest hlink hctl hsector hpresent hfile htrack hcursor hfits hanswers hok hlen hrecs hin
  have hs : s.AtSector h (s.drive s.sel).track 0 :=
    { link_free := hlink, in_loop := hctl, sector_eq := hsector, present := hpresent, file_eq := hfile, track_eq := rfl
      on_image := htrack, cursor_eq := by rw [hcursor, Nat.zero_mul, Nat.add_zero]
      fits := hfits, answers := hanswers, answers_ok := hok }
  have asks : ∀ r ∈ recs, AsksFor (s.drive s.sel).track r := fun r hr =>
    have ⟨hsix, hrd, htr⟩ := hrecs r hr
    ⟨hsix, hrd, htr⟩
  obtain ⟨t, hrun, htctl, htsector, htin, htcursor, himages, evs, htrace, hsent⟩ := hs.serve_track asks hlen hin
  refine ⟨t, evs, hrun, htctl, htsector, htin, htcursor, himages, htrace, ?_, hsent⟩
  rw [hsent, List.length_append, imageSectors_length, gapBytes_length]

end Sys2Proof.Machine
end

section
/-! SUPPORT. The codec's arithmetic: what the bit functions do with each bit, and the lanes as a sum that masking and
concatenation go through. R99, R131, R132, R142. -/

namespace Sys2Proof.Machine

/-! ## Bits -/

/-- The mask keeps the even bits, the data positions. -/
theorem getLsbD_even (v : Byte) (i : Nat) : (even v).getLsbD i = (decide (i % 2 = 0) && v.getLsbD i) := by
  have mask : ∀ i < 8, Config.dataMask.getLsbD i = decide (i % 2 = 0) := by decide
  rw [even, BitVec.getLsbD_and]
  by_cases hi : i < 8
  · rw [mask i hi, Bool.and_comm]
  · simp [BitVec.getLsbD_of_ge v i (not_lt.1 hi)]

theorem odd_eq_even_shift (v : Byte) : odd v = even (v >>> 1) := rfl

theorem getLsbD_odd (v : Byte) (i : Nat) : (odd v).getLsbD i = (decide (i % 2 = 0) && v.getLsbD (1 + i)) := by
  rw [odd_eq_even_shift, getLsbD_even, BitVec.getLsbD_ushiftRight]

/-- The merge takes its even bits from the second byte and its odd bits from the first, one place lower. -/
theorem getLsbD_merge (wo we : Byte) (i : Nat) :
    (merge wo we).getLsbD i =
      if i % 2 = 0 then we.getLsbD i else decide (i < 8) && wo.getLsbD (i - 1) := by
  show ((even wo <<< 1) ||| even we).getLsbD i = _
  rw [BitVec.getLsbD_or, BitVec.getLsbD_shiftLeft, getLsbD_even, getLsbD_even]
  by_cases hi : i % 2 = 0
  · have below : ¬(i - 1) % 2 = 0 ∨ i < 1 := by omega
    rcases below with below | below <;> simp [hi, below]
  · have below : (i - 1) % 2 = 0 ∧ ¬i < 1 := by omega
    simp [hi, below]

/-- The data positions of a byte, split into halves and merged, whatever stands in the clock positions. -/
theorem merge_eq_of_even {v wo we : Byte} (ho : even wo = odd v) (he : even we = even v) : merge wo we = v := by
  have bitOdd : ∀ i, (even wo).getLsbD i = (odd v).getLsbD i := fun i => by rw [ho]
  have bitEven : ∀ i, (even we).getLsbD i = (even v).getLsbD i := fun i => by rw [he]
  simp only [getLsbD_even, getLsbD_odd] at bitOdd bitEven
  apply BitVec.eq_of_getLsbD_eq
  intro i hi
  rw [getLsbD_merge]
  by_cases h : i % 2 = 0
  · rw [if_pos h]; simpa [h] using bitEven i
  · have below : (i - 1) % 2 = 0 ∧ 1 + (i - 1) = i := by omega
    rw [if_neg h, decide_eq_true hi]; simpa [below] using bitOdd (i - 1)

/-- The halves of a merge are the data positions of its two bytes. -/
@[simp] theorem odd_merge (wo we : Byte) : odd (merge wo we) = even wo := by
  apply BitVec.eq_of_getLsbD_eq
  intro i hi
  rw [getLsbD_odd, getLsbD_merge, getLsbD_even]
  by_cases h : i % 2 = 0
  · have up : ¬(1 + i) % 2 = 0 ∧ 1 + i < 8 := by omega
    simp [h, up]
  · simp [h]

@[simp] theorem even_merge (wo we : Byte) : even (merge wo we) = even we := by
  apply BitVec.eq_of_getLsbD_eq
  intro i hi
  rw [getLsbD_even, getLsbD_merge, getLsbD_even]
  by_cases h : i % 2 = 0 <;> simp [h]

@[simp] theorem even_zero : even 0 = 0 := rfl

@[simp] theorem even_even (v : Byte) : even (even v) = even v := by
  rw [even, even, BitVec.and_assoc, BitVec.and_self]

@[simp] theorem even_odd (v : Byte) : even (odd v) = odd v := even_even _

@[simp] theorem even_xor (v w : Byte) : even (v ^^^ w) = even v ^^^ even w := by
  apply BitVec.eq_of_getLsbD_eq
  intro i hi
  simp only [getLsbD_even, BitVec.getLsbD_xor, Bool.and_xor_distrib_left]

@[simp] theorem even_or (v w : Byte) : even (v ||| w) = even v ||| even w := BitVec.and_or_distrib_right

/-- The filler has nothing in the data positions (R104). -/
theorem even_or_fill (v : Byte) : even (v ||| Config.fill) = even v := by
  have fill : even Config.fill = 0 := by decide
  rw [even_or, fill]; exact BitVec.or_zero

/-- The clock positions of what is merged do not matter (R142). -/
@[simp] theorem merge_even_even (wo we : Byte) : merge (even wo) (even we) = merge wo we := by
  unfold merge; rw [← even, ← even, ← even, ← even, even_even, even_even]

theorem odd_xor_even (v : Byte) : odd v ^^^ even v = even (v ^^^ (v >>> 1)) := by
  rw [odd_eq_even_shift, ← even_xor, BitVec.xor_comm]

/-- Settles O22, bit by bit. -/
theorem bitFunctionLaws : Obligations.BitFunctionLaws := by
  refine ⟨fun _ => ⟨rfl, rfl⟩, fun _ _ => rfl, fun v c d hc hd => ?_, odd_xor_even, by decide, by decide, rfl, rfl⟩
  have hc : even c = 0 := hc
  have hd : even d = 0 := hd
  exact merge_eq_of_even (by rw [even_or, even_odd, hc]; exact BitVec.or_zero)
    (by rw [even_or, even_even, hd]; exact BitVec.or_zero)

/-! ## Lanes -/

@[simp] theorem laneOf_nil (k : Nat) : laneOf [] k = 0 := rfl

/-- A map that goes through exclusive or goes through the lanes. -/
theorem laneOf_map {f : Byte → Byte} (hzero : f 0 = 0) (hxor : ∀ x y, f (x ^^^ y) = f x ^^^ f y) (bs : List Byte)
    (k : Nat) : laneOf (bs.map f) k = f (laneOf bs k) := by
  induction bs using List.reverseRecOn with
  | nil => exact hzero.symm
  | append_singleton bs x ih =>
    rw [List.map_append, List.map_singleton, laneOf_concat, laneOf_concat, List.length_map, ih]
    split
    · rw [hxor]
    · rfl

theorem laneOf_map_even (bs : List Byte) (k : Nat) : laneOf (bs.map even) k = even (laneOf bs k) :=
  laneOf_map even_zero even_xor bs k

theorem laneOf_map_xor (f g : Byte → Byte) (bs : List Byte) (k : Nat) :
    laneOf (bs.map fun x => f x ^^^ g x) k = laneOf (bs.map f) k ^^^ laneOf (bs.map g) k := by
  induction bs using List.reverseRecOn with
  | nil => exact BitVec.xor_zero.symm
  | append_singleton bs x ih =>
    simp only [List.map_append, List.map_singleton, laneOf_concat, List.length_map, ih]
    split
    · ac_rfl
    · rfl

/-- A list put at a multiple of four adds its lanes. -/
theorem laneOf_append {l : List Byte} (hl : l.length % 4 = 0) (m : List Byte) (k : Nat) :
    laneOf (l ++ m) k = laneOf l k ^^^ laneOf m k := by
  induction m using List.reverseRecOn with
  | nil => simp
  | append_singleton m x ih =>
    have index : (l ++ m).length % 4 = m.length % 4 := by rw [List.length_append]; omega
    rw [← List.append_assoc, laneOf_concat, laneOf_concat, index, ih]
    split
    · rw [BitVec.xor_assoc]
    · rfl

/-- A change of one byte changes its own lane, by as much. -/
theorem laneOf_set {bs : List Byte} {i : Nat} (hi : i < bs.length) (d : Byte) (k : Nat) :
    laneOf (bs.set i (bs.getD i 0 ^^^ d)) k = laneOf bs k ^^^ if i % 4 = k then d else 0 := by
  induction bs using List.reverseRecOn with
  | nil => exact absurd hi (Nat.not_lt_zero i)
  | append_singleton bs x ih =>
    rcases Nat.lt_or_ge i bs.length with h | h
    · have old : (bs ++ [x]).getD i 0 = bs.getD i 0 := List.getD_append _ _ _ _ h
      rw [List.set_append_left _ _ h, old, laneOf_concat, laneOf_concat, List.length_set, ih h]
      split
      · ac_rfl
      · rfl
    · obtain rfl : i = bs.length := by simp at hi; omega
      have new : (bs ++ [x]).set bs.length ((bs ++ [x]).getD bs.length 0 ^^^ d) = bs ++ [x ^^^ d] := by simp
      rw [new, laneOf_concat, laneOf_concat]
      split
      · rw [BitVec.xor_assoc]
      · exact BitVec.xor_zero.symm

theorem lanesOf_append {l : List Byte} (hl : l.length % 4 = 0) (m : List Byte) :
    lanesOf (l ++ m) = Quad.zipWith (· ^^^ ·) (lanesOf l) (lanesOf m) := by
  simp only [lanesOf, laneOf_append hl, Quad.zipWith]

theorem foldLanes_quad (p q : Quad Byte) : foldLanes p 0 q.toList = Quad.zipWith (· ^^^ ·) p q := rfl

theorem lanesOf_toList (q : Quad Byte) : lanesOf q.toList = q := by
  rw [← foldLanes_eq_lanesOf, foldLanes_quad]
  simp [Quad.zipWith, Quad.fill]

/-- The lanes with the clock positions cleared are the lanes of the bytes with them cleared. -/
theorem maskLanes_lanesOf (bs : List Byte) : maskLanes (lanesOf bs) = lanesOf (bs.map even) := by
  simp only [lanesOf, laneOf_map_even]; rfl

theorem foldLanes_add_mul_four (q : Quad Byte) (n : Nat) (l : List Byte) : foldLanes q (4 * n) l = foldLanes q 0 l := by
  induction n with
  | zero => rfl
  | succ n ih => rw [Nat.mul_succ, foldLanes_add_four, ih]

/-- The fold taken up again, after a multiple of four, with what it had come to. -/
theorem foldLanes_lanesOf {l : List Byte} (hl : l.length % 4 = 0) (m : List Byte) :
    foldLanes (lanesOf l) 0 m = lanesOf (l ++ m) := by
  obtain ⟨n, hn⟩ := Nat.dvd_of_mod_eq_zero hl
  rw [← foldLanes_eq_lanesOf, ← foldLanes_eq_lanesOf, foldLanes_append, hn, Nat.zero_add, foldLanes_add_mul_four]

/-! ## Longwords -/

/-- The four bytes of a longword, the highest first (R132). -/
def longwordBytes (w : BitVec 32) : Quad Byte :=
  ⟨w.extractLsb' 24 8, w.extractLsb' 16 8, w.extractLsb' 8 8, w.extractLsb' 0 8⟩

theorem longwordBytes_xor (v w : BitVec 32) :
    longwordBytes (v ^^^ w) = Quad.zipWith (· ^^^ ·) (longwordBytes v) (longwordBytes w) := by
  simp only [longwordBytes, Quad.zipWith, BitVec.extractLsb'_xor]

/-- The longword sum of a list is the lanes of its bytes. -/
theorem foldLanes_longwords (ws : List (BitVec 32)) (v : BitVec 32) :
    foldLanes (longwordBytes v) 0 (ws.flatMap fun w => (longwordBytes w).toList) =
      longwordBytes (ws.foldl (· ^^^ ·) v) := by
  induction ws generalizing v with
  | nil => rfl
  | cons w ws ih =>
    rw [List.flatMap_cons, foldLanes_append, foldLanes_quad, ← longwordBytes_xor, Quad.toList_length,
      foldLanes_add_four, ih, List.foldl_cons]

/-- Settles O23: the columns, then the longwords from a sum of zero. -/
theorem lanesAreColumns : Obligations.LanesAreColumns :=
  ⟨foldLanes_eq_lanesOf, fun ws => congrArg Quad.toList (foldLanes_longwords ws 0)⟩

end Sys2Proof.Machine
end

section
/-! SUPPORT. The codec's operations as functions of the bytes they send or receive: the two encoders' sends, and what
DECODE_HEADER and DECODE_DATA make of a block of bytes. R133, R136 to R140. -/

namespace Sys2Proof.Machine

/-! ## Sending -/

theorem exec_encodeSector {sec : BitVec 4} {s : State} (hsec : sec ≤ 10) (hlink : s.linkSelected = true) (t : Byte)
    (sync : Word16) : exec (.encodeSector sec t sync) s = .next (send (sectorBytes s.buf sec t sync) s) := by
  have inRange : ¬Config.lastSector < sec := BitVec.not_lt.2 hsec
  have selected : ¬s.linkSelected = false := by simp [hlink]
  show execEncodeSector sec t sync s = _
  rw [execEncodeSector, if_neg inRange, if_neg selected]

/-- Settles O25: a send only adds its exchanges to the record. -/
theorem encodeSectorSends : Obligations.EncodeSectorSends := fun _ t sync _ hsec hlink =>
  exec_encodeSector hsec hlink t sync

theorem exec_sendGap {s : State} (hlink : s.linkSelected = true) : exec .sendGap s = .next (send gapBytes s) := by
  have selected : ¬s.linkSelected = false := by simp [hlink]
  show execSendGap s = _
  rw [execSendGap, if_neg selected]

theorem sendEvents_append (l m : List Byte) : sendEvents (l ++ m) = sendEvents l ++ sendEvents m := List.map_append

/-- A sector that is asked for goes out in the session of its live-state read, after sector 10 with the gap (R172). -/
theorem readServe_readPoll_trace {d : DriveIx} {h : Handle} {s : State}
    (hwants : wantsTrack d (readPoll d h s) = true) :
    (readServe d (readPoll d h s)).trace =
      s.trace ++ [.storeRead d (fileAt s.store h).cursor (accessOk h s), .linkSelect] ++
        recvEvents (received 6 (fillBuffer d h s)) ++ sendEvents (servedBytes (readPoll d h s)) ++ [.linkDeselect] := by
  rw [readServe_eq, if_pos hwants, readPoll_trace]

/-- Settles O26: READ_TRACK's bytes for sector 10 are the sector and the gap. -/
theorem sendGapSends : Obligations.SendGapSends := by
  refine ⟨fun s hlink => exec_sendGap hlink, ?_⟩
  intro d h b0 b1 b2 b3 b4 b5 rest s hlink hpresent hfile hn hctl hsec hin hrd htrack
  have hwants : wantsTrack d (readPoll d h s) = true := wantsTrack_of_linkIn hn hin hrd htrack
  have hlive : received 6 (fillBuffer d h s) = [b0, b1, b2, b3, b4, b5] := received_of_append hin rfl
  have hlt : (readPoll d h s).lt = (s.drive d).track := by
    rw [readPoll_lt, hlive, clampTrack_eq_min _ hn]; exact htrack
  have hserved : servedBytes (readPoll d h s) =
      sectorBytes (readPoll d h s).buf 10 (s.drive d).track (readPoll d h s).sync ++ List.replicate 700 0xAA := by
    have hlast : (readPoll d h s).sector = 10 := by rw [readPoll_sector, hsec]
    rw [servedBytes, hlast, hlt, if_pos (by decide), gapBytes_eq]
  refine ⟨readServe d (readPoll d h s), accessOk h s,
    execReadTrack_of_rdLoop hlink (image?_eq_some hpresent hfile) hctl (by rw [hsec]; decide), ?_⟩
  rw [readServe_readPoll_trace hwants, hlive, hserved, sendEvents_append]
  simp only [readServe_eq, List.append_assoc]

/-! ## Receiving in pieces -/

theorem received_eq_take {n N : Nat} (h : n ≤ N) (s : State) : received n s = (received N s).take n := by
  obtain ⟨r, rfl⟩ := Nat.exists_eq_add_of_le h
  rw [received_add, List.take_left' (received_length n s)]

/-- What comes after the first m bytes, out of a longer run of N. -/
theorem received_recv {m n N : Nat} (h : m + n ≤ N) (s : State) :
    received n (recv m s) = ((received N s).drop m).take n := by
  obtain ⟨r, rfl⟩ := Nat.exists_eq_add_of_le h
  rw [Nat.add_assoc, received_add m (n + r), List.drop_left' (received_length m s),
    received_eq_take (Nat.le_add_right n r)]

theorem byteAt_take_drop {l : List Byte} {m n i : Nat} (h : i < n) :
    byteAt ((l.drop m).take n) i = byteAt l (m + i) := by
  simp only [byteAt, List.getD_eq_getElem?_getD, List.getElem?_take_of_lt h, List.getElem?_drop]

theorem quadAt_take_drop {l : List Byte} {m n i : Nat} (h : i + 3 < n) :
    quadAt ((l.drop m).take n) i = quadAt l (m + i) := by
  have place : ∀ k ≤ 3, byteAt ((l.drop m).take n) (i + k) = byteAt l (m + i + k) := fun k hk => by
    rw [byteAt_take_drop (by omega), Nat.add_assoc]
  simp only [quadAt, Quad.mk.injEq]
  exact ⟨place 0 (by decide), place 1 (by decide), place 2 (by decide), place 3 (by decide)⟩

/-- Eight bytes are two groups of four, and their lanes are the groups' sum. -/
theorem lanesOf_eight {l : List Byte} (h : l.length = 8) :
    lanesOf l = Quad.zipWith (· ^^^ ·) (quadAt l 0) (quadAt l 4) := by
  match l, h with
  | [a, b, c, d, e, f, g, i], _ =>
    show lanesOf ((⟨a, b, c, d⟩ : Quad Byte).toList ++ (⟨e, f, g, i⟩ : Quad Byte).toList) = _
    rw [lanesOf_append (by simp), lanesOf_toList, lanesOf_toList]; rfl

/-! ## A checksum field against lanes -/

/-- The four bytes at i merged with the four at j (R103). -/
def mergedAt (bs : List Byte) (i j : Nat) : Quad Byte := Quad.zipWith merge (quadAt bs i) (quadAt bs j)

/-- The comparison of R139 and R140, lane by lane. -/
theorem mergedAt_eq_maskLanes_iff (bs summed : List Byte) (i j : Nat) :
    mergedAt bs i j = maskLanes (lanesOf summed) ↔
      ∀ k < 4, merge (bs.getD (i + k) 0) (bs.getD (j + k) 0) = even (laneOf summed k) := by
  have lane : mergedAt bs i j = maskLanes (lanesOf summed) ↔
      merge (bs.getD (i + 0) 0) (bs.getD (j + 0) 0) = even (laneOf summed 0) ∧
        merge (bs.getD (i + 1) 0) (bs.getD (j + 1) 0) = even (laneOf summed 1) ∧
        merge (bs.getD (i + 2) 0) (bs.getD (j + 2) 0) = even (laneOf summed 2) ∧
        merge (bs.getD (i + 3) 0) (bs.getD (j + 3) 0) = even (laneOf summed 3) := by
    rw [mergedAt, maskLanes, Quad.map, lanesOf, Quad.zipWith, Quad.mk.injEq]; rfl
  rw [lane]
  exact ⟨fun ⟨h0, h1, h2, h3⟩ k hk => by interval_cases k <;> assumption,
    fun h => ⟨h 0 (by decide), h 1 (by decide), h 2 (by decide), h 3 (by decide)⟩⟩

/-! ## DECODE_DATA -/

/-- The checksum a data block carries (R140). -/
def dataChecksum (bs : List Byte) : Quad Byte := mergedAt bs 0 4

/-- The checksum computed from a data block's payload (R140). -/
def dataSums (bs : List Byte) : Quad Byte := maskLanes (lanesOf (bs.drop 8))

/-- The 512 bytes a data block's payload carries (R140). -/
def dataBlock (bs : List Byte) : Block := mergePasses ((bs.drop 8).take 512) (bs.drop 520)

theorem exec_decodeData {s : State} (hlink : s.linkSelected = true) :
    exec .decodeData s = .next (decodeDataBody s) := by
  have selected : ¬s.linkSelected = false := by simp [hlink]
  show execDecodeData s = _
  rw [execDecodeData, if_neg selected]

/-- DECODE_DATA before the comparison. -/
theorem receivePayload_receiveChecksum (s : State) :
    receivePayload (receiveChecksum s) = { recv 1032 s with
      wo := quadAt (received 1032 s) 0, we := quadAt (received 1032 s) 4, cks := dataChecksum (received 1032 s)
      lane := dataSums (received 1032 s), buf := dataBlock (received 1032 s) } := by
  have field : received 8 s = ((received 1032 s).drop 0).take 8 := received_eq_take (by decide) s
  have payload : received 1024 (receiveChecksum s) = (received 1032 s).drop 8 := by
    rw [show received 1024 (receiveChecksum s) = received 1024 (recv 8 s) from rfl,
      received_recv (N := 1032) (by decide)]
    exact List.take_of_length_le (by simp)
  have passes : (received 1024 (receiveChecksum s)).take 512 ++ (received 1024 (receiveChecksum s)).drop 512 =
      (received 1032 s).drop 8 := by rw [List.take_append_drop, payload]
  have lanes : foldLanes (foldLanes (Quad.fill 0) 0 ((received 1024 (receiveChecksum s)).take 512)) 0
      ((received 1024 (receiveChecksum s)).drop 512) = lanesOf ((received 1032 s).drop 8) := by
    rw [foldLanes_eq_lanesOf, foldLanes_lanesOf (by simp), passes]
  have half : (received 1024 (receiveChecksum s)).drop 512 = (received 1032 s).drop 520 := by
    rw [payload, List.drop_drop]
  rw [receivePayload, lanes, half, payload, receiveChecksum, field, quadAt_take_drop (by decide),
    quadAt_take_drop (by decide), ← recv_recv 8 1024 s]
  rfl

/-- DECODE_DATA as a function of the 1032 bytes it receives. -/
theorem decodeDataBody_eq (s : State) :
    decodeDataBody s = { recv 1032 s with
      wo := quadAt (received 1032 s) 0, we := quadAt (received 1032 s) 4, cks := dataChecksum (received 1032 s)
      lane := dataSums (received 1032 s), buf := dataBlock (received 1032 s)
      error := if dataChecksum (received 1032 s) = dataSums (received 1032 s) then s.error else 29
      ret := some (decide (dataChecksum (received 1032 s) = dataSums (received 1032 s))) } := by
  rw [decodeDataBody, checksumVerdict_eq, receivePayload_receiveChecksum]; rfl

theorem dataBlock_length {bs : List Byte} (h : bs.length = 1032) :
    (List.zipWith merge ((bs.drop 8).take 512) (bs.drop 520)).length = 512 := by simp [h]

/-- Each buffer byte is the merge of its odd-pass and its even-pass byte (R140). -/
theorem dataBlock_getD {bs : List Byte} (h : bs.length = 1032) {i : Nat} (hi : i < 512) :
    (dataBlock bs).bytes.getD i 0 = merge (bs.getD (8 + i) 0) (bs.getD (520 + i) 0) := by
  have low : 8 + i < bs.length := by omega
  have high : 520 + i < bs.length := by omega
  rw [dataBlock, mergePasses, Block.ofList_bytes (dataBlock_length h), List.getD_eq_getElem _ _ low,
    List.getD_eq_getElem _ _ high, List.getD_eq_getElem _ _ (by rw [dataBlock_length h]; exact hi)]
  simp

/-- Settles O28: the comparison of the quads is the comparison of the lanes. -/
theorem decodeDataVerdict : Obligations.DecodeDataVerdict := by
  intro s hlink
  refine ⟨decodeDataBody s, exec_decodeData hlink, by rw [decodeDataBody_eq]; rfl, ?_⟩
  rw [decodeDataBody_eq]
  refine ⟨rfl, rfl, fun i hi => dataBlock_getD (received_length 1032 s) hi, ?_⟩
  have accepted := mergedAt_eq_maskLanes_iff (received 1032 s) ((received 1032 s).drop 8) 0 4
  simp only [Nat.zero_add] at accepted
  split
  · next h => exact ⟨if_pos (accepted.2 h), congrArg some (decide_eq_true (accepted.2 h))⟩
  · next h =>
    have differ : ¬dataChecksum (received 1032 s) = dataSums (received 1032 s) := fun e => h (accepted.1 e)
    exact ⟨if_neg differ, congrArg some (decide_eq_false differ)⟩

end Sys2Proof.Machine
end

section
/-! SUPPORT. DECODE_HEADER as a function of the block of bytes it receives: its three ways out. R137 to R139. -/

namespace Sys2Proof.Machine

/-- The header info a header block carries (R137). -/
def receivedInfo (bs : List Byte) : Quad Byte := mergedAt bs 2 6

/-- The checksum a header block carries (R139). -/
def headerChecksum (bs : List Byte) : Quad Byte := mergedAt bs 42 46

/-- The checksum computed from a header block's info and label (R139). -/
def headerSums (bs : List Byte) : Quad Byte := maskLanes (lanesOf ((bs.drop 2).take 40))

theorem exec_decodeHeader {s : State} (hlink : s.linkSelected = true) :
    exec .decodeHeader s = .next (decodeHeaderBody s) := by
  have selected : ¬s.linkSelected = false := by simp [hlink]
  show execDecodeHeader s = _
  rw [execDecodeHeader, if_neg selected]

theorem syncNext_iff (s : State) : syncNext s = true ↔ (received 50 s).take 2 = wordBytes Config.syncCanon := by
  rw [syncNext, decide_eq_true_iff, received_eq_take (N := 50) (by decide)]

/-- The header info, taken after the sync. -/
theorem receiveInfo_recv (s : State) :
    receiveInfo (recv 2 s) = { recv 10 s with
      o := quadAt (received 50 s) 2, e := quadAt (received 50 s) 6, b := receivedInfo (received 50 s)
      lane := lanesOf (((received 50 s).drop 2).take 8) } := by
  have field : received 8 (recv 2 s) = ((received 50 s).drop 2).take 8 := received_recv (by decide) s
  have lanes := lanesOf_eight (l := ((received 50 s).drop 2).take 8) (by simp)
  rw [quadAt_take_drop (by decide), quadAt_take_drop (by decide)] at lanes
  rw [lanes, receiveInfo, field, quadAt_take_drop (by decide), quadAt_take_drop (by decide), recv_recv]
  rfl

/-- Label and checksum, taken after a header info that has passed its checks. -/
theorem receiveChecksum_receiveLabel (s : State) :
    receiveChecksum (receiveLabel (takeHeader (receiveInfo (recv 2 s)))) = { recv 50 s with
      o := quadAt (received 50 s) 2, e := quadAt (received 50 s) 6, b := receivedInfo (received 50 s)
      hdrTrack := (receivedInfo (received 50 s)).q1, hdrSector := (receivedInfo (received 50 s)).q2
      wo := quadAt (received 50 s) 42, we := quadAt (received 50 s) 46, cks := headerChecksum (received 50 s)
      lane := headerSums (received 50 s) } := by
  have label : received 32 (recv 10 s) = ((received 50 s).drop 10).take 32 := received_recv (by decide) s
  have field : received 8 (recv 32 (recv 10 s)) = ((received 50 s).drop 42).take 8 := by
    rw [recv_recv]; exact received_recv (by decide) s
  have summed : ((received 50 s).drop 2).take 8 ++ ((received 50 s).drop 10).take 32 =
      ((received 50 s).drop 2).take 40 := by
    rw [show 40 = 8 + 32 from rfl, List.take_add, List.drop_drop]
  have lanes : foldLanes (lanesOf (((received 50 s).drop 2).take 8)) 0 (received 32 (recv 10 s)) =
      lanesOf (((received 50 s).drop 2).take 40) := by
    rw [label, foldLanes_lanesOf (by simp), summed]
  have wo : quadAt (received 8 (recv 32 (recv 10 s))) 0 = quadAt (received 50 s) 42 := by
    rw [field, quadAt_take_drop (by decide)]
  have we : quadAt (received 8 (recv 32 (recv 10 s))) 4 = quadAt (received 50 s) 46 := by
    rw [field, quadAt_take_drop (by decide)]
  have supply : recv 50 s = recv 8 (recv 32 (recv 10 s)) := by rw [recv_recv, recv_recv]
  rw [receiveInfo_recv, supply, headerSums, headerChecksum, mergedAt, ← lanes, ← wo, ← we]
  rfl

/-! The three ways out of DECODE_HEADER. -/

theorem decodeHeaderBody_of_no_sync {s : State} (h : (received 50 s).take 2 ≠ wordBytes Config.syncCanon) :
    decodeHeaderBody s = raiseErr 21 (recv 2 s) := if_neg fun e => h ((syncNext_iff s).1 e)

theorem decodeHeaderBody_of_fieldError {s : State} {c : Byte}
    (h : (received 50 s).take 2 = wordBytes Config.syncCanon)
    (hc : headerFieldError (receivedInfo (received 50 s)) = some c) :
    decodeHeaderBody s = raiseErr c { recv 10 s with
      o := quadAt (received 50 s) 2, e := quadAt (received 50 s) 6, b := receivedInfo (received 50 s)
      lane := lanesOf (((received 50 s).drop 2).take 8) } := by
  rw [decodeHeaderBody, if_pos ((syncNext_iff s).2 h), headerChecks, receiveInfo_recv]
  simp only [hc]

theorem decodeHeaderBody_of_fields {s : State} (h : (received 50 s).take 2 = wordBytes Config.syncCanon)
    (hc : headerFieldError (receivedInfo (received 50 s)) = none) :
    decodeHeaderBody s = { recv 50 s with
      o := quadAt (received 50 s) 2, e := quadAt (received 50 s) 6, b := receivedInfo (received 50 s)
      hdrTrack := (receivedInfo (received 50 s)).q1, hdrSector := (receivedInfo (received 50 s)).q2
      wo := quadAt (received 50 s) 42, we := quadAt (received 50 s) 46, cks := headerChecksum (received 50 s)
      lane := headerSums (received 50 s)
      error := if headerChecksum (received 50 s) = headerSums (received 50 s) then s.error else 26
      ret := some (decide (headerChecksum (received 50 s) = headerSums (received 50 s))) } := by
  have info : (receiveInfo (recv 2 s)).b = receivedInfo (received 50 s) := by rw [receiveInfo_recv]
  rw [decodeHeaderBody, if_pos ((syncNext_iff s).2 h), headerChecks, info]
  simp only [hc]
  rw [checksumVerdict_eq, receiveChecksum_receiveLabel]
  rfl

/-- DECODE_HEADER writes the codec's registers, `Error`, the verdict and what an exchange changes (R137). -/
theorem decodeHeaderBody_codec_only (s : State) :
    decodeHeaderBody s = { s with
      hdrTrack := (decodeHeaderBody s).hdrTrack, hdrSector := (decodeHeaderBody s).hdrSector
      b := (decodeHeaderBody s).b, lane := (decodeHeaderBody s).lane, cks := (decodeHeaderBody s).cks
      o := (decodeHeaderBody s).o, e := (decodeHeaderBody s).e, wo := (decodeHeaderBody s).wo
      we := (decodeHeaderBody s).we, error := (decodeHeaderBody s).error, ret := (decodeHeaderBody s).ret
      linkIn := (decodeHeaderBody s).linkIn, draws := (decodeHeaderBody s).draws
      trace := (decodeHeaderBody s).trace } := by
  by_cases h : (received 50 s).take 2 = wordBytes Config.syncCanon
  · cases hc : headerFieldError (receivedInfo (received 50 s)) with
    | some c => rw [decodeHeaderBody_of_fieldError h hc]; rfl
    | none => rw [decodeHeaderBody_of_fields h hc]; rfl
  · rw [decodeHeaderBody_of_no_sync h]; rfl

/-- DECODE_HEADER stopping with an error after n bytes (R138, D26). -/
structure HeaderFails (s t : State) (code : Byte) (n : Nat) : Prop where
  error_eq : t.error = code
  ret_eq : t.ret = some false
  linkIn_eq : t.linkIn = s.linkIn.drop n
  trace_eq : t.trace = s.trace ++ recvEvents ((received 50 s).take n)
  hdrTrack_eq : t.hdrTrack = s.hdrTrack
  hdrSector_eq : t.hdrSector = s.hdrSector

theorem headerFails_of_no_sync {s : State} (h : (received 50 s).take 2 ≠ wordBytes Config.syncCanon) :
    HeaderFails s (decodeHeaderBody s) 21 2 := by
  have trace : (recv 2 s).trace = s.trace ++ recvEvents ((received 50 s).take 2) := by
    rw [← received_eq_take (by decide)]; rfl
  rw [decodeHeaderBody_of_no_sync h]
  exact ⟨rfl, rfl, rfl, trace, rfl, rfl⟩

theorem headerFails_of_fieldError {s : State} {c : Byte} (h : (received 50 s).take 2 = wordBytes Config.syncCanon)
    (hc : headerFieldError (receivedInfo (received 50 s)) = some c) : HeaderFails s (decodeHeaderBody s) c 10 := by
  have trace : (recv 10 s).trace = s.trace ++ recvEvents ((received 50 s).take 10) := by
    rw [← received_eq_take (by decide)]; rfl
  rw [decodeHeaderBody_of_fieldError h hc]
  exact ⟨rfl, rfl, rfl, trace, rfl, rfl⟩

/-- The first field check that fails, in the order of R138, from the bytes received. -/
theorem headerFieldError_receivedInfo (bs : List Byte) :
    headerFieldError (receivedInfo bs) =
      (let b := fun k => merge (bs.getD (2 + k) 0) (bs.getD (6 + k) 0)
       if b 0 ≠ 0xFF then some 22 else if 159 < (b 1).toNat then some 23 else if 10 < (b 2).toNat then some 24
       else if b 3 = 0 ∨ 11 < (b 3).toNat then some 25 else none) := rfl

theorem take_two_eq_sync_iff {bs : List Byte} (h : bs.length = 50) :
    bs.take 2 = wordBytes Config.syncCanon ↔ bs.getD 0 0 = 0x44 ∧ bs.getD 1 0 = 0x89 := by
  have sync : wordBytes Config.syncCanon = [0x44, 0x89] := by decide
  match bs, h with
  | a :: b :: rest, _ => simp [sync]

theorem HeaderFails.verdict {s t : State} {code : Byte} {n : Nat} (h : HeaderFails s t code n) :
    (t.error = code ∧ t.ret = some false ∧ t.linkIn = s.linkIn.drop n ∧
      t.trace = s.trace ++ recvEvents ((received 50 s).take n)) ∧
    t.hdrTrack = s.hdrTrack ∧ t.hdrSector = s.hdrSector :=
  ⟨⟨h.error_eq, h.ret_eq, h.linkIn_eq, h.trace_eq⟩, h.hdrTrack_eq, h.hdrSector_eq⟩

/-- Settles O27: the sync, the field checks in their order, and the checksum lane by lane. -/
theorem decodeHeaderVerdict : Obligations.DecodeHeaderVerdict := by
  intro s hlink
  refine ⟨decodeHeaderBody s, exec_decodeHeader hlink, decodeHeaderBody_codec_only s, ?_⟩
  have sync := take_two_eq_sync_iff (received_length 50 s)
  have fields := headerFieldError_receivedInfo (received 50 s)
  have checksum : headerChecksum (received 50 s) = headerSums (received 50 s) ↔ _ :=
    mergedAt_eq_maskLanes_iff (received 50 s) (((received 50 s).drop 2).take 40) 42 46
  dsimp only at fields ⊢
  split
  · next h => exact (headerFails_of_no_sync fun e => h (sync.1 e)).verdict
  next h =>
  have h := sync.2 (not_not.1 h)
  split_ifs at fields ⊢ with marker track sector gap accepted
  · exact (headerFails_of_fieldError h fields).verdict
  · exact (headerFails_of_fieldError h fields).verdict
  · exact (headerFails_of_fieldError h fields).verdict
  · exact (headerFails_of_fieldError h fields).verdict
  · rw [decodeHeaderBody_of_fields h fields]
    exact ⟨rfl, rfl, if_pos (checksum.2 accepted), congrArg some (decide_eq_true (checksum.2 accepted)), rfl, rfl⟩
  · have differ : ¬headerChecksum (received 50 s) = headerSums (received 50 s) := fun e => accepted (checksum.1 e)
    rw [decodeHeaderBody_of_fields h fields, List.take_of_length_le (received_length 50 s).le]
    exact ⟨rfl, rfl, if_neg differ, congrArg some (decide_eq_false differ), rfl, rfl⟩

end Sys2Proof.Machine
end

section
/-! SUPPORT. The laws that tie encode and decode: what is received matters in its data positions only, what was encoded
decodes, and one flipped data bit shows. R141, R142. -/

namespace Sys2Proof.Machine

/-! ## Clock positions -/

/-- A function of the data positions gives the same for blocks that agree in them. -/
theorem congr_of_map_even {α : Type} {f : List Byte → α} (hf : ∀ bs, f (bs.map even) = f bs) {bs cs : List Byte}
    (h : bs.map even = cs.map even) : f bs = f cs := by
  rw [← hf bs, h, hf cs]

theorem map_even_map_even (bs : List Byte) : (bs.map even).map even = bs.map even := by
  rw [List.map_map]; exact List.map_congr_left fun v _ => even_even v

theorem byteAt_map_even (bs : List Byte) (i : Nat) : byteAt (bs.map even) i = even (byteAt bs i) :=
  List.getD_map bs 0 even

theorem mergedAt_map_even (i j : Nat) (bs : List Byte) : mergedAt (bs.map even) i j = mergedAt bs i j := by
  simp only [mergedAt, quadAt, Quad.zipWith, byteAt_map_even, merge_even_even]

theorem maskLanes_lanesOf_map_even (bs : List Byte) : maskLanes (lanesOf (bs.map even)) = maskLanes (lanesOf bs) := by
  rw [maskLanes_lanesOf, maskLanes_lanesOf, map_even_map_even]

theorem dataSums_map_even (bs : List Byte) : dataSums (bs.map even) = dataSums bs := by
  rw [dataSums, ← List.map_drop, maskLanes_lanesOf_map_even]; rfl

theorem dataBlock_map_even (bs : List Byte) : dataBlock (bs.map even) = dataBlock bs := by
  simp only [dataBlock, mergePasses, ← List.map_drop, ← List.map_take, List.zipWith_map, merge_even_even]

theorem headerSums_map_even (bs : List Byte) : headerSums (bs.map even) = headerSums bs := by
  rw [headerSums, ← List.map_drop, ← List.map_take, maskLanes_lanesOf_map_even]; rfl

/-- DECODE_DATA's results depend on the data positions of what is received. -/
theorem decodeDataBody_congr {s u : State} (he : s.error = u.error)
    (h : (received 1032 s).map even = (received 1032 u).map even) :
    (decodeDataBody s).ret = (decodeDataBody u).ret ∧ (decodeDataBody s).error = (decodeDataBody u).error ∧
      (decodeDataBody s).buf = (decodeDataBody u).buf := by
  have checksum : dataChecksum (received 1032 s) = dataChecksum (received 1032 u) :=
    congr_of_map_even (mergedAt_map_even 0 4) h
  have sums : dataSums (received 1032 s) = dataSums (received 1032 u) := congr_of_map_even dataSums_map_even h
  have block : dataBlock (received 1032 s) = dataBlock (received 1032 u) := congr_of_map_even dataBlock_map_even h
  simp only [decodeDataBody_eq, checksum, sums, block, he, and_self]

/-- DECODE_HEADER's results depend on the sync bytes and on the data positions of what is received. -/
theorem decodeHeaderBody_congr {s u : State} (he : s.error = u.error) (ht : s.hdrTrack = u.hdrTrack)
    (hs : s.hdrSector = u.hdrSector) (hsync : (received 50 s).take 2 = (received 50 u).take 2)
    (h : (received 50 s).map even = (received 50 u).map even) :
    (decodeHeaderBody s).ret = (decodeHeaderBody u).ret ∧ (decodeHeaderBody s).error = (decodeHeaderBody u).error ∧
      (decodeHeaderBody s).hdrTrack = (decodeHeaderBody u).hdrTrack ∧
      (decodeHeaderBody s).hdrSector = (decodeHeaderBody u).hdrSector := by
  have info : receivedInfo (received 50 s) = receivedInfo (received 50 u) :=
    congr_of_map_even (mergedAt_map_even 2 6) h
  have checksum : headerChecksum (received 50 s) = headerChecksum (received 50 u) :=
    congr_of_map_even (mergedAt_map_even 42 46) h
  have sums : headerSums (received 50 s) = headerSums (received 50 u) := congr_of_map_even headerSums_map_even h
  by_cases sync : (received 50 s).take 2 = wordBytes Config.syncCanon
  · cases fields : headerFieldError (receivedInfo (received 50 s)) with
    | some c =>
      rw [decodeHeaderBody_of_fieldError sync fields,
        decodeHeaderBody_of_fieldError (hsync ▸ sync) (info ▸ fields)]
      exact ⟨rfl, rfl, ht, hs⟩
    | none =>
      rw [decodeHeaderBody_of_fields sync fields, decodeHeaderBody_of_fields (hsync ▸ sync) (info ▸ fields)]
      simp only [checksum, sums, info, he, and_self]
  · rw [decodeHeaderBody_of_no_sync sync, decodeHeaderBody_of_no_sync (hsync ▸ sync)]
    exact ⟨rfl, rfl, ht, hs⟩

theorem map_take_eq_of_getD {f : Byte → Byte} {l m : List Byte} {n : Nat} (hn : n ≤ l.length)
    (hlen : l.length = m.length) (h : ∀ i < n, f (l.getD i 0) = f (m.getD i 0)) :
    (l.take n).map f = (m.take n).map f := by
  apply List.ext_getElem
  · simp [hlen]
  · intro i hl _
    have hi : i < n := by simp at hl; omega
    have same := h i hi
    rw [List.getD_eq_getElem _ _ (by omega), List.getD_eq_getElem _ _ (by omega)] at same
    simpa using same

/-- Settles O32: both supplies last, so that what is received is their fronts. -/
theorem clockBitsIgnored : Obligations.ClockBitsIgnored := by
  intro s l m hlink hlen
  refine ⟨fun hl hsync heven => ?_, fun hl heven => ?_⟩
  · have hrl : received 50 { s with linkIn := l } = l.take 50 := received_of_le hl
    have hrm : received 50 { s with linkIn := m } = m.take 50 := received_of_le (hlen ▸ hl)
    have sync : (l.take 2).map id = (m.take 2).map id := map_take_eq_of_getD (by omega) hlen hsync
    rw [List.map_id, List.map_id] at sync
    refine ⟨_, _, exec_decodeHeader hlink, exec_decodeHeader hlink, decodeHeaderBody_congr rfl rfl rfl ?_ ?_⟩
    · rw [hrl, hrm, List.take_take, List.take_take]; exact sync
    · rw [hrl, hrm]; exact map_take_eq_of_getD hl hlen heven
  · have hrl : received 1032 { s with linkIn := l } = l.take 1032 := received_of_le hl
    have hrm : received 1032 { s with linkIn := m } = m.take 1032 := received_of_le (hlen ▸ hl)
    refine ⟨_, _, exec_decodeData hlink, exec_decodeData hlink, decodeDataBody_congr rfl ?_⟩
    rw [hrl, hrm]; exact map_take_eq_of_getD hl hlen heven

/-! ## What the encoder sends, as the decoder takes it -/

/-- The part of a sector that DECODE_HEADER takes: bytes 6 to 55 (R104). -/
def headerRecord (s : BitVec 4) (t : Byte) (sync : Word16) : List Byte :=
  wordBytes sync ++ ((((headerInfo s t).map odd).toList ++ ((headerInfo s t).map even).toList ++
    List.replicate 32 Config.fill) ++ checksumField (headerLanes s t))

/-- The part of a sector that DECODE_DATA takes: bytes 56 on (R104). -/
def dataRecord (buf : Block) : List Byte := checksumField (dataLanes buf) ++ sectorPayload buf

@[simp] theorem headerRecord_length (s : BitVec 4) (t : Byte) (sync : Word16) :
    (headerRecord s t sync).length = 50 := by simp [headerRecord, wordBytes]

@[simp] theorem dataRecord_length (buf : Block) : (dataRecord buf).length = 1032 := by simp [dataRecord]

theorem sectorBytes_drop_six (buf : Block) (s : BitVec 4) (t : Byte) (sync : Word16) :
    (sectorBytes buf s t sync).drop 6 = headerRecord s t sync ++ dataRecord buf := by
  have parts : sectorBytes buf s t sync =
      (List.replicate 4 Config.fill ++ wordBytes sync) ++ (headerRecord s t sync ++ dataRecord buf) := by
    simp only [sectorBytes, sectorHeader, headerRecord, dataRecord, List.append_assoc]
  rw [parts, List.drop_left' (by simp [wordBytes])]

theorem sectorBytes_header (buf : Block) (s : BitVec 4) (t : Byte) (sync : Word16) :
    ((sectorBytes buf s t sync).drop 6).take 50 = headerRecord s t sync := by
  rw [sectorBytes_drop_six, List.take_left' (by simp)]

theorem sectorBytes_data (buf : Block) (s : BitVec 4) (t : Byte) (sync : Word16) :
    (sectorBytes buf s t sync).drop 56 = dataRecord buf := by
  rw [show 56 = 6 + 50 from rfl, ← List.drop_drop, sectorBytes_drop_six, List.drop_left' (by simp)]

theorem odd_even (v : Byte) : odd (even v) = 0 := by
  apply BitVec.eq_of_getLsbD_eq
  intro i hi
  rw [getLsbD_odd, getLsbD_even]
  by_cases h : i % 2 = 0
  · have up : ¬(1 + i) % 2 = 0 := by omega
    simp [up]
  · simp [h]

/-- A checksum field's lane as sent merges to the lane's data positions (R103, R140). -/
theorem merge_fill (v : Byte) : merge Config.fill (v ||| Config.fill) = even v := by
  have fill : even Config.fill = 0 := by decide
  exact merge_eq_of_even (by rw [fill, odd_even]) (by rw [even_or_fill, even_even])

theorem mergedAt_checksumField (q : Quad Byte) (rest : List Byte) :
    mergedAt (checksumField q ++ rest) 0 4 = maskLanes q := by
  have sent : mergedAt (checksumField q ++ rest) 0 4 = q.map fun v => merge Config.fill (v ||| Config.fill) := rfl
  rw [sent, maskLanes, Quad.map, Quad.map]
  simp only [merge_fill]; rfl

/-- A byte's two halves as sent in the payload merge to the byte (R140). -/
theorem merge_payload (v : Byte) : merge ((v >>> 1) ||| Config.fill) (v ||| Config.fill) = v :=
  merge_eq_of_even (even_or_fill _) (even_or_fill v)

/-! ## The data block -/

/-- The lanes of the payload as sent are those the encoder computed, in the data positions (R135, R140). -/
theorem dataSums_dataRecord (buf : Block) : dataSums (dataRecord buf) = maskLanes (dataLanes buf) := by
  have payload : (dataRecord buf).drop 8 = sectorPayload buf := List.drop_left' (checksumField_length _)
  have oddPass : (buf.bytes.map fun x : Byte => (x >>> 1) ||| Config.fill).map even = buf.bytes.map odd := by
    rw [List.map_map]; exact List.map_congr_left fun v _ => even_or_fill _
  have evenPass : (buf.bytes.map fun x : Byte => x ||| Config.fill).map even = buf.bytes.map even := by
    rw [List.map_map]; exact List.map_congr_left fun v _ => even_or_fill v
  have summed : (buf.bytes.map fun x : Byte => x ^^^ (x >>> 1)).map even =
      buf.bytes.map fun x => odd x ^^^ even x := by
    rw [List.map_map]; exact List.map_congr_left fun v _ => (odd_xor_even v).symm
  rw [dataSums, payload, sectorPayload, dataLanes, foldLanes_eq_lanesOf, maskLanes_lanesOf, maskLanes_lanesOf, summed,
    List.map_append, oddPass, evenPass, lanesOf_append (by simp)]
  simp only [lanesOf, laneOf_map_xor, Quad.zipWith]

theorem dataChecksum_dataRecord (buf : Block) : dataChecksum (dataRecord buf) = dataSums (dataRecord buf) := by
  rw [dataSums_dataRecord]; exact mergedAt_checksumField _ _

theorem dataBlock_dataRecord (buf : Block) : dataBlock (dataRecord buf) = buf := by
  have payload : (dataRecord buf).drop 8 = sectorPayload buf := List.drop_left' (checksumField_length _)
  have oddPass : (sectorPayload buf).take 512 = buf.bytes.map fun x : Byte => (x >>> 1) ||| Config.fill :=
    List.take_left' (by simp)
  have evenPass : (sectorPayload buf).drop 512 = buf.bytes.map fun x : Byte => x ||| Config.fill :=
    List.drop_left' (by simp)
  rw [dataBlock, show 520 = 8 + 512 from rfl, ← List.drop_drop, payload, oddPass, evenPass, mergePasses,
    List.zipWith_map, List.zipWith_self]
  simp only [merge_payload, List.map_id']
  exact Block.ofList_bytes_self buf

/-- A data block as encoded, whatever stands in its clock positions, passes and gives its buffer. -/
theorem decodeDataBody_of_dataRecord {s : State} {buf : Block}
    (h : (received 1032 s).map even = (dataRecord buf).map even) :
    (decodeDataBody s).ret = some true ∧ (decodeDataBody s).error = s.error ∧ (decodeDataBody s).buf = buf := by
  have checksum : dataChecksum (received 1032 s) = dataSums (received 1032 s) := by
    rw [congr_of_map_even dataSums_map_even h, ← dataChecksum_dataRecord]
    exact congr_of_map_even (mergedAt_map_even 0 4) h
  have block : dataBlock (received 1032 s) = buf := by
    rw [congr_of_map_even dataBlock_map_even h, dataBlock_dataRecord]
  rw [decodeDataBody_eq]
  exact ⟨congrArg some (decide_eq_true checksum), if_pos checksum, block⟩

theorem decodeDataBody_linkIn (s : State) : (decodeDataBody s).linkIn = s.linkIn.drop 1032 := by
  rw [decodeDataBody_eq]; rfl

/-- Settles O29: the 1032 bytes received are the encoder's data block. -/
theorem dataRoundTrip : Obligations.DataRoundTrip := by
  intro buf sec tr sync s rest _ hlink hin
  rw [sectorBytes_data] at hin
  have hrecv : received 1032 s = dataRecord buf := received_of_append hin (dataRecord_length buf)
  obtain ⟨hret, herror, hbuf⟩ := decodeDataBody_of_dataRecord (congrArg (List.map even) hrecv)
  refine ⟨decodeDataBody s, exec_decodeData hlink, hret, hbuf, herror, ?_⟩
  rw [decodeDataBody_linkIn, hin, List.drop_left' (dataRecord_length buf)]

/-! ## The header -/

/-- The info and the label as sent sum to the encoder's checksum: the label's bytes cancel (R134). -/
theorem headerSums_headerRecord (s : BitVec 4) (t : Byte) (sync : Word16) :
    headerSums (headerRecord s t sync) = maskLanes (headerLanes s t) := by
  have summed : ((headerRecord s t sync).drop 2).take 40 =
      ((headerInfo s t).map odd).toList ++ ((headerInfo s t).map even).toList ++ List.replicate 32 Config.fill := by
    rw [headerRecord, List.drop_left' (by simp [wordBytes]), List.take_left' (by simp)]
  have label : lanesOf (List.replicate 32 Config.fill) = Quad.fill 0 := by decide
  rw [headerSums, summed, lanesOf_append (by simp), lanesOf_append (by simp), lanesOf_toList, lanesOf_toList, label]
  simp [Quad.zipWith, Quad.map, Quad.fill, headerLanes]

theorem headerChecksum_headerRecord (s : BitVec 4) (t : Byte) (sync : Word16) :
    headerChecksum (headerRecord s t sync) = headerSums (headerRecord s t sync) := by
  have field : headerChecksum (headerRecord s t sync) = mergedAt (checksumField (headerLanes s t) ++ []) 0 4 := rfl
  rw [headerSums_headerRecord, field, mergedAt_checksumField]

theorem receivedInfo_headerRecord (s : BitVec 4) (t : Byte) (sync : Word16) :
    receivedInfo (headerRecord s t sync) = headerInfo s t := by
  have halves : receivedInfo (headerRecord s t sync) = (headerInfo s t).map fun v => merge (odd v) (even v) := rfl
  have whole : ∀ v, merge (odd v) (even v) = v := fun v => merge_eq_of_even (even_odd v) (even_even v)
  rw [halves, Quad.map]
  simp only [whole]

/-- The header of a sector 0 to 10 on a track below 160 passes the field checks (R138). -/
theorem headerFieldError_headerInfo {s : BitVec 4} {t : Byte} (hs : s ≤ 10) (ht : t.toNat < 160) :
    headerFieldError (headerInfo s t) = none := by
  have hn : s.toNat ≤ 10 := hs
  have track : ¬Config.hdrTrackLimit ≤ t.toNat := not_le.2 ht
  have sector : ¬10 < (BitVec.ofNat 8 s.toNat).toNat := by rw [BitVec.toNat_ofNat]; omega
  have gap : (BitVec.ofNat 8 (11 - s.toNat)).toNat = 11 - s.toNat := by rw [BitVec.toNat_ofNat]; omega
  have gapRange : ¬(BitVec.ofNat 8 (11 - s.toNat) = 0 ∨ 11 < (BitVec.ofNat 8 (11 - s.toNat)).toNat) := by
    rintro (h | h)
    · have := congrArg BitVec.toNat h
      rw [gap] at this; simp at this; omega
    · omega
  have marker : ¬(0xFF : Byte) ≠ Config.formatMarker := by decide
  rw [headerInfo_eq hs, headerFieldError, if_neg marker, if_neg track, if_neg sector, if_neg gapRange]

/-- Settles O30: the 50 bytes received are the encoder's header block. -/
theorem headerRoundTrip : Obligations.HeaderRoundTrip := by
  intro buf sec tr s rest hsec htr hlink hin
  rw [sectorBytes_header] at hin
  have hrecv : received 50 s = headerRecord sec tr 0x4489 := received_of_append hin (headerRecord_length _ _ _)
  have sync : (received 50 s).take 2 = wordBytes Config.syncCanon := by rw [hrecv]; rfl
  have info : receivedInfo (received 50 s) = headerInfo sec tr := by rw [hrecv, receivedInfo_headerRecord]
  have fields : headerFieldError (receivedInfo (received 50 s)) = none := by
    rw [info, headerFieldError_headerInfo hsec htr]
  have checksum : headerChecksum (received 50 s) = headerSums (received 50 s) := by
    rw [hrecv, headerChecksum_headerRecord]
  refine ⟨decodeHeaderBody s, exec_decodeHeader hlink, ?_⟩
  rw [decodeHeaderBody_of_fields sync fields, info]
  refine ⟨congrArg some (decide_eq_true checksum), rfl, ?_, if_pos checksum, ?_⟩
  · exact BitVec.toNat_setWidth_of_le (by decide)
  · show s.linkIn.drop 50 = rest
    rw [hin, List.drop_left' (headerRecord_length _ _ _)]

/-! ## Flipped bits -/

/-- A block of bytes with one byte changed by exclusive or. -/
def flipped (bs : List Byte) (i : Nat) (d : Byte) : List Byte := bs.set i (bs.getD i 0 ^^^ d)

@[simp] theorem flipped_length (bs : List Byte) (i : Nat) (d : Byte) : (flipped bs i d).length = bs.length :=
  List.length_set

theorem getD_flipped_self {bs : List Byte} {i : Nat} (hi : i < bs.length) (d : Byte) :
    (flipped bs i d).getD i 0 = bs.getD i 0 ^^^ d := by
  simp [flipped, List.getD_eq_getElem?_getD, hi]

theorem getD_flipped_of_ne {bs : List Byte} {i k : Nat} (h : i ≠ k) (d : Byte) :
    (flipped bs i d).getD k 0 = bs.getD k 0 := by
  simp [flipped, List.getD_eq_getElem?_getD, List.getElem?_set_ne h]

/-- A change in clock positions only leaves the data positions. -/
theorem map_even_flipped {d : Byte} (hd : even d = 0) (bs : List Byte) (i : Nat) :
    (flipped bs i d).map even = bs.map even := by
  apply List.ext_getElem?
  intro k
  by_cases h : i = k
  · subst h
    by_cases hi : i < bs.length
    · simp [flipped, hi, hd]
    · simp [flipped, hi]
  · simp [flipped, List.getElem?_set_ne h]

/-- A change in a data position of a block that passes makes one lane differ: in the received checksum, or in the
computed one (R140). -/
theorem dataChecksum_flipped_ne {bs : List Byte} {i : Nat} {d : Byte} (hlen : bs.length = 1032) (hi : i < 1032)
    (hd : even d ≠ 0) (h : dataChecksum bs = dataSums bs) :
    dataChecksum (flipped bs i d) ≠ dataSums (flipped bs i d) := by
  have changes : ∀ v, even (v ^^^ d) ≠ even v := fun v e => hd (by rw [even_xor] at e; simpa using e)
  have lanes := (mergedAt_eq_maskLanes_iff bs (bs.drop 8) 0 4).1 h
  intro h'
  have lanes' := (mergedAt_eq_maskLanes_iff _ ((flipped bs i d).drop 8) 0 4).1 h'
  rcases Nat.lt_or_ge i 8 with field | payload
  · have same : (flipped bs i d).drop 8 = bs.drop 8 := List.drop_set_of_lt field
    rcases Nat.lt_or_ge i 4 with oddHalf | evenHalf
    · have lane := lanes' i oddHalf
      rw [same, ← lanes i oddHalf, Nat.zero_add, getD_flipped_self (by omega)] at lane
      exact changes (bs.getD i 0) (by simpa only [odd_merge] using congrArg odd lane)
    · obtain ⟨k, rfl⟩ := Nat.exists_eq_add_of_le evenHalf
      have lane := lanes' k (by omega)
      rw [same, ← lanes k (by omega), getD_flipped_self (by omega)] at lane
      exact changes (bs.getD (4 + k) 0) (by simpa only [even_merge] using congrArg even lane)
  · obtain ⟨p, rfl⟩ := Nat.exists_eq_add_of_le payload
    have hk : p % 4 < 4 := Nat.mod_lt _ (by decide)
    have rest : (flipped bs (8 + p) d).drop 8 = (bs.drop 8).set p ((bs.drop 8).getD p 0 ^^^ d) := by
      rw [flipped, List.drop_set]; simp [List.getD_eq_getElem?_getD]
    have lane := lanes' (p % 4) hk
    rw [rest, laneOf_set (by simp; omega), if_pos rfl, getD_flipped_of_ne (by omega), getD_flipped_of_ne (by omega),
      lanes _ hk] at lane
    exact changes _ lane.symm

/-- Even bits are data positions, odd bits clock positions (R99). -/
theorem even_bit {j : Nat} (hj : j < 8) : even (1#8 <<< j) = 0 ↔ j % 2 = 1 := by
  interval_cases j <;> decide

/-- Settles O31: a flip in a data position makes the checksums differ, one in a clock position is not seen. -/
theorem dataBitFlips : Obligations.DataBitFlips := by
  intro buf sec tr sync s rest i j _ hlink hi hj hin
  rw [sectorBytes_data] at hin
  have hrecv : received 1032 s = flipped (dataRecord buf) i (1#8 <<< j) := received_of_append hin (by simp)
  refine ⟨decodeDataBody s, exec_decodeData hlink, fun hdata => ?_, fun hclock => ?_⟩
  · have bit : even (1#8 <<< j) ≠ 0 := fun e => by have := (even_bit hj).1 e; omega
    have differ := dataChecksum_flipped_ne (dataRecord_length buf) hi bit (dataChecksum_dataRecord buf)
    rw [← hrecv] at differ
    rw [decodeDataBody_eq]
    exact ⟨if_neg differ, congrArg some (decide_eq_false differ)⟩
  · have same : (received 1032 s).map even = (dataRecord buf).map even := by
      rw [hrecv, map_even_flipped ((even_bit hj).2 hclock)]
    obtain ⟨hret, herror, hbuf⟩ := decodeDataBody_of_dataRecord same
    exact ⟨herror, hret, hbuf⟩

end Sys2Proof.Machine
end

section
/-! SUPPORT. READ_TRACK's transitions one by one, each as a full next state: the live-state read, the entry's seek, one
turn of the loop, the exits and the advance. R95, R96, R170 to R175. -/

namespace Sys2Proof.Machine

/-! ## The live state -/

/-- The six bytes of a live-state read, by name (R171). -/
theorem received_six (s : State) : ∃ b0 b1 b2 b3 b4 b5, received 6 s = [b0, b1, b2, b3, b4, b5] := by
  match received 6 s, received_length 6 s with
  | [b0, b1, b2, b3, b4, b5], _ => exact ⟨b0, b1, b2, b3, b4, b5, rfl⟩

/-- LIVE_STATE as a full next state: which byte goes into which register (R96, R171). -/
theorem readLiveState_of_received {s : State} {b0 b1 b2 b3 b4 b5 : Byte}
    (hlive : received 6 s = [b0, b1, b2, b3, b4, b5]) :
    readLiveState s = { s with
      lsStatus := b0, lsTrack := b1, lsSync := b2 ++ b3, lsLen := b4.extractLsb' 0 6 ++ b5, lsActive := b4.getLsbD 7
      linkIn := s.linkIn.drop 6, draws := s.draws + 6
      trace := s.trace ++ recvEvents [b0, b1, b2, b3, b4, b5] } := by
  rw [← wordOf_eq_append, ← lengthOf_eq_append, readLiveState, recv, hlive]
  rfl

theorem exec_liveState {s : State} (hlink : s.linkSelected = true) : exec .liveState s = .next (readLiveState s) := by
  have selected : ¬s.linkSelected = false := by simp [hlink]
  exact if_neg selected

/-- Settles O21: the six bytes are what the controller answers. -/
theorem liveStateFillsRegisters : Obligations.LiveStateFillsRegisters := by
  intro s hlink
  obtain ⟨b0, b1, b2, b3, b4, b5, hlive⟩ := received_six s
  refine ⟨b0, b1, b2, b3, b4, b5, hlive ▸ mayReceive_received 6 s, ?_⟩
  rw [exec_liveState hlink, readLiveState_of_received hlive]

/-! ## A seek and a read, by their result code -/

section Store

variable {h : Handle} {s : State}

theorem seekOk_of_answer {off : Nat} {a : StoreAnswer} {rest : List StoreAnswer} (hq : s.storeIn = a :: rest)
    (hfits : off ≤ (fileAt s.store h).size) : seekOk h off s = a.ok := by
  rw [seekOk, nextAnswer_cons hq, decide_eq_true hfits, Bool.and_true]

theorem cursor_storeSeek_of_ok {off : Nat} (hok : seekOk h off s = true) (d : DriveIx) :
    (fileAt (storeSeek d h off s).store h).cursor = off := by
  rw [fileAt_storeSeek, if_pos rfl, if_pos hok]

theorem accessOk_of_answer {a : StoreAnswer} {rest : List StoreAnswer} (hq : s.storeIn = a :: rest)
    (haligned : (fileAt s.store h).cursor % 512 = 0)
    (hfits : (fileAt s.store h).cursor + 512 ≤ (fileAt s.store h).size) : accessOk h s = a.ok := by
  rw [accessOk, nextAnswer_cons hq, StoreFile.serves, decide_eq_true haligned, decide_eq_true hfits, Bool.and_self,
    Bool.and_true]

theorem cursor_storeRead_of_ok (hok : accessOk h s = true) (d : DriveIx) :
    (fileAt (storeRead d h s).store h).cursor = (fileAt s.store h).cursor + 512 := by
  rw [fileAt_storeRead, if_pos rfl, if_pos hok]

theorem readCells_getD (m : Memory) (off : Nat) {i : Nat} (hi : i < 512) :
    (readCells m off).bytes.getD i 0 = cellAt m (off + i) := by
  rw [readCells, Block.ofList_bytes (by simp)]
  simp [hi]

/-- A good read gives the image bytes from the cursor on (R64). -/
theorem readData_getD_of_ok (hok : accessOk h s = true) {i : Nat} (hi : i < 512) :
    (readData h s).bytes.getD i 0 = imageByte s h ((fileAt s.store h).cursor + i) := by
  rw [readData, if_pos hok, readCells_getD _ _ hi]
  rfl

/-- The start of a track (R68, R170, R175). -/
theorem byteOffset_trackStart (tr : Nat) : byteOffset tr 0 = tr * 11 * 512 := rfl

end Store

/-! ## The entry -/

section Entry

variable {d : DriveIx} {h : Handle} {s : State}

theorem execReadTrack_of_entry (hlink : s.linkSelected = false) (hi : s.image? d = some h) (hloop : s.ctl ≠ .rdLoop)
    (hnext : s.ctl ≠ .rdNext) : execReadTrack d s = .next (readEntry d h s) := by
  simp only [execReadTrack, hlink, hi, Bool.false_eq_true, if_false]

/-- The cache is valid unless the track has changed (R23, R170). -/
theorem DriveState.entrySector_eq (r : DriveState) :
    (if r.cacheValid then r.sectorOffset else 0) = if r.trackPrev ≠ some r.track then 0 else r.sectorOffset := by
  simp only [DriveState.cacheValid, decide_eq_true_eq, ite_not]

theorem readEntry_cursorOnly (d : DriveIx) (h : Handle) (s : State) : CursorOnly h s (readEntry d h s) := by
  rw [readEntry_eq]
  exact (storeSeek_cursorOnly d h _ s).congr rfl rfl

/-- Settles O33: the entry's one form, with the result code the seek's own. -/
theorem readEntrySeeks : Obligations.ReadEntrySeeks := by
  intro d h s hlink hpresent hfile hloop hnext
  refine ⟨readEntry d h s, seekOk h (byteOffset (s.drive d).track.toNat
    (if (s.drive d).cacheValid then (s.drive d).sectorOffset else 0 : BitVec 4).toNat) s,
    execReadTrack_of_entry hlink (image?_eq_some hpresent hfile) hloop hnext, (ReadMove.entry hloop hnext).quiet.2,
    readEntry_cursorOnly d h s, ?_⟩
  dsimp only
  rw [← DriveState.entrySector_eq, readEntry_eq]
  exact ⟨rfl, fun hok => cursor_storeSeek_of_ok hok d, fun a rest hq hfits => seekOk_of_answer hq hfits⟩

end Entry

/-! ## One turn of the loop -/

section Loop

variable {d : DriveIx} {h : Handle} {s : State} {b0 b1 b2 b3 b4 b5 : Byte}

/-- RD_LOOP up to the decision as a full next state (R172, R173). -/
theorem readPoll_of_received (hlive : received 6 (fillBuffer d h s) = [b0, b1, b2, b3, b4, b5]) :
    readPoll d h s = { s with
      linkSelected := true, buf := readData h s, lsStatus := b0, lsTrack := b1, lsSync := b2 ++ b3
      lsLen := b4.extractLsb' 0 6 ++ b5, lsActive := b4.getLsbD 7
      lt := clampTrack b1 (s.drive d).tracks, sync := substituteSync (b2 ++ b3)
      store := (storeRead d h s).store, linkIn := s.linkIn.drop 6, storeIn := s.storeIn.tail, draws := s.draws + 7
      trace := s.trace ++ [.storeRead d (fileAt s.store h).cursor (accessOk h s), .linkSelect] ++
        recvEvents [b0, b1, b2, b3, b4, b5] } := by
  have inSession : received 6 (linkSelect (fillBuffer d h s)) = [b0, b1, b2, b3, b4, b5] := hlive
  have htrace : (linkSelect (fillBuffer d h s)).trace =
      s.trace ++ [.storeRead d (fileAt s.store h).cursor (accessOk h s), .linkSelect] := by
    simp
  rw [readPoll, openData, readLiveState_of_received inSession, htrace]
  rfl

theorem wantsTrack_iff : wantsTrack d s = true ↔ s.lt = (s.drive d).track ∧ s.lsStatus.getLsbD 0 = true := by
  rw [wantsTrack, Bool.and_eq_true, decide_eq_true_eq]
  rfl

theorem readServe_readPoll_cursorOnly (d : DriveIx) (h : Handle) (s : State) :
    CursorOnly h s (readServe d (readPoll d h s)) :=
  (storeRead_cursorOnly d h s).congr rfl (by rw [readServe_store, readPoll_store])

/-- Settles O34: the decision and the bytes served, read off the state in which RD_LOOP decides. -/
theorem readLoopServes : Obligations.ReadLoopServes := by
  intro d h s hlink hpresent hfile htracks hctl hsector
  obtain ⟨b0, b1, b2, b3, b4, b5, hlive⟩ := received_six (fillBuffer d h s)
  have may : s.MayReceive (received 6 (fillBuffer d h s)) := mayReceive_received 6 (fillBuffer d h s)
  refine ⟨readServe d (readPoll d h s), accessOk h s, b0, b1, b2, b3, b4, b5,
    execReadTrack_of_rdLoop hlink (image?_eq_some hpresent hfile) hctl hsector, (ReadMove.serve hctl).quiet.2,
    readServe_readPoll_cursorOnly d h s, hlive ▸ may, ?_⟩
  dsimp only
  have hstore : (readServe d (readPoll d h s)).store = (storeRead d h s).store := by
    rw [readServe_store, readPoll_store]
  have hbuf : (readServe d (readPoll d h s)).buf = readData h s := by rw [readServe_eq, readPoll_buf]
  refine ⟨?_, fun hok => ⟨?_, fun i hi => ?_⟩, fun a rest hq haligned hfits => accessOk_of_answer hq haligned hfits⟩
  · rw [hbuf, hstore, readServe_eq, ← clampTrack_eq_min b1 htracks, ← syncSubstitution]
    simp only [wantsTrack_iff]
    rw [readPoll_of_received hlive, ← hlink]
    rfl
  · rw [hstore, cursor_storeRead_of_ok hok]
  · rw [hbuf, readData_getD_of_ok hok hi]

end Loop

/-! ## The exits and the advance -/

/-- Settles O35: the decision is that of the loop; below sector 10 no STORE event, at 10 one seek. -/
theorem readNextExitsOrAdvances : Obligations.ReadNextExitsOrAdvances := by
  intro d h s hlink hpresent hfile hctl
  have hexec : exec (.readTrack d) s = .next (readNext d h s) :=
    execReadTrack_of_rdNext hlink (image?_eq_some hpresent hfile) hctl
  rw [hexec]
  refine ⟨fun hexit => ?_, fun htrack hrd hsec => ?_, fun htrack hrd hsec => ?_⟩
  · have hwants : ¬wantsTrack d s = true := by
      rw [wantsTrack_iff]
      rintro ⟨htrack, hrd⟩
      exact hexit.elim (fun hne => hne htrack) (by simp [hrd])
    rw [readNext, if_neg hwants]
  · have hne : s.sector + 1 ≠ 11 := by bv_omega
    rw [readNext, if_pos (wantsTrack_iff.2 ⟨htrack, hrd⟩), readAdvance, if_neg hne]
    rfl
  · have heq : s.sector + 1 = 11 := by rw [hsec]; rfl
    rw [readNext, if_pos (wantsTrack_iff.2 ⟨htrack, hrd⟩), readAdvance, if_pos heq, byteOffset_trackStart]
    exact ⟨_, seekOk h ((s.drive d).track.toNat * 11 * 512) s, rfl, imageByte_storeSeek d h _ s,
      (storeSeek_cursorOnly d h _ s).congr rfl rfl, rfl, fun hok => cursor_storeSeek_of_ok hok d,
      fun a rest hq hfits => seekOk_of_answer hq hfits⟩

end Sys2Proof.Machine
end

section
/-! SUPPORT. The RDTRK in which the controller asks for nothing: the opening, the entry, one turn of the loop and the
exit, each one step. R170 to R174, R232, R238. -/

namespace Sys2Proof

/-- Of two writes of one entry the later stays. -/
theorem Quad.set_set {α : Type} (q : Quad α) (i : BitVec 2) (v w : α) : (q.set i v).set i w = q.set i w := by
  unfold Quad.set; split_ifs <;> rfl

end Sys2Proof

namespace Sys2Proof.Machine

/-! ## The opening -/

theorem toNat_clampTrack (t : Byte) {n : Byte} (hn : n ≠ 0) :
    (clampTrack t n).toNat = min t.toNat (n.toNat - 1) := by
  rw [clampTrack_eq_min t hn, BitVec.toNat_ofNat]
  exact Nat.mod_eq_of_lt (Nat.lt_of_le_of_lt (Nat.min_le_left _ _) t.isLt)

theorem startOperation_of_present {s : State} {sel : DriveIx} (hc : s.ctl = .idle) (hlink : s.linkSelected = false)
    (hp : (s.drive sel).present = true) (entry : Ctl) (count : BitVec 2) (t : Byte) :
    startOperation entry sel count t s = .next (openOperation entry sel count t s) := by
  simp [startOperation, hc, hlink, hp]

/-- A read command at the head of the queue opens the reader (R230, R232). -/
theorem step_of_readCommand {s : State} {c1 : Byte} (hc : s.ctl = .idle) (hlink : s.linkSelected = false)
    (hrd : cmdRd c1 = true) (hp : (s.drive (cmdSel c1)).present = true) (c2 : Byte) :
    step { s with events := .command c1 c2 :: s.events } =
      .next (openOperation .rdEntry (cmdSel c1) (cmdCount c1) c2 s) := by
  refine (step_of_idle_cons (s := { s with events := .command c1 c2 :: s.events }) hc rfl).trans ?_
  rw [fetchEvent, decodeCommand_of_rd hrd]
  exact startOperation_of_present hc hlink hp _ _ _

/-- The opening as a full next state (R230 to R233). -/
theorem openOperation_eq (entry : Ctl) (sel : DriveIx) (count : BitVec 2) (t : Byte) (s : State) :
    openOperation entry sel count t s = { s with
      drives := count, sel := sel, led := true, ctl := entry, trace := s.trace ++ [.ledOn]
      df := s.df.set sel { s.drive sel with track := clampTrack t (s.drive sel).tracks } } := rfl

theorem openOperation_drive (entry : Ctl) (sel : DriveIx) (count : BitVec 2) (t : Byte) (s : State) :
    (openOperation entry sel count t s).drive sel =
      { s.drive sel with track := clampTrack t (s.drive sel).tracks } :=
  Quad.get_set_self _ _ _

theorem openOperation_image? {h : Handle} {s : State} {sel : DriveIx} (hi : s.image? sel = some h) (entry : Ctl)
    (count : BitVec 2) (t : Byte) : (openOperation entry sel count t s).image? sel = some h := by
  rw [State.image?, openOperation_drive]
  exact hi

/-! ## The reader's steps -/

section Steps

variable {h : Handle} {s : State}

theorem step_of_rdEntry (hlink : s.linkSelected = false) (hi : s.image? s.sel = some h) (hc : s.ctl = .rdEntry) :
    step s = .next (readEntry s.sel h s) := by
  refine step_of_execReadTrack (by rw [hc]; rfl) (execReadTrack_of_entry hlink hi ?_ ?_) ?_
  · rw [hc]; nofun
  · rw [hc]; nofun
  · rw [readEntry_eq]; nofun

theorem step_of_rdLoop (hlink : s.linkSelected = false) (hi : s.image? s.sel = some h) (hc : s.ctl = .rdLoop)
    (hsec : s.sector ≤ 10) : step s = .next (s.served h) := by
  refine step_of_execReadTrack (by rw [hc]; rfl) (execReadTrack_of_rdLoop hlink hi hc hsec) ?_
  nofun

/-- An exit of READ_TRACK ends the operation, and so its LED bracket (R174, R238). -/
theorem step_of_rdNext_exit (hlink : s.linkSelected = false) (hi : s.image? s.sel = some h) (hc : s.ctl = .rdNext)
    (hwants : wantsTrack s.sel s = false) : step s = .next (ledOff { s with ctl := .idle }) := by
  have hexec : exec (.readTrack s.sel) s = .next { s with ctl := .idle } := by
    refine (execReadTrack_of_rdNext hlink hi hc).trans ?_
    rw [readNext, hwants]; rfl
  rw [step_of_reading (by rw [hc]; rfl), hexec]
  rfl

end Steps

/-! ## The entry after a fresh mount -/

/-- The reader in its loop, opened by a read command and entered. -/
def State.readOpened (s : State) (sel : DriveIx) (h : Handle) (count : BitVec 2) (t : Byte) : State :=
  readEntry sel h (openOperation .rdEntry sel count t s)

section Opened

variable {h : Handle} {s : State} {c1 : Byte}

/-- Two steps: the opening and the entry. -/
theorem run_readOpened (hc : s.ctl = .idle) (hlink : s.linkSelected = false) (hrd : cmdRd c1 = true)
    (hi : s.image? (cmdSel c1) = some h) (c2 : Byte) :
    Sys2Proof.core.run 2 { s with events := .command c1 c2 :: s.events } =
      .next (s.readOpened (cmdSel c1) h (cmdCount c1) c2) :=
  run_two (step_of_readCommand hc hlink hrd (image?_some hi).1 c2)
    (step_of_rdEntry hlink (openOperation_image? hi _ _ _) rfl)

/-- With an invalid cache the entry seeks the track start (R170). -/
theorem readEntry_of_invalid {d : DriveIx} (hcache : (s.drive d).cacheValid = false) :
    readEntry d h s =
      let start := (s.drive d).track.toNat * 11 * 512
      { s with
        df := s.df.set d { s.drive d with trackPrev := some (s.drive d).track, sectorOffset := 0 }
        sector := 0, ctl := .rdLoop
        store := (storeSeek d h start s).store, storeIn := s.storeIn.tail, draws := s.draws + 1
        trace := s.trace ++ [.storeSeek d start (seekOk h start s)] } := by
  rw [readEntry_eq, hcache]; rfl

/-- After a fresh mount the reader stands at sector 0 and has sought the start of the clamped track (R170, R231). -/
theorem readOpened_of_uncached {sel : DriveIx} (hcache : (s.drive sel).trackPrev = none) (count : BitVec 2) (t : Byte) :
    s.readOpened sel h count t =
      let tr := clampTrack t (s.drive sel).tracks
      let start := tr.toNat * 11 * 512
      { s with
        drives := count, sel := sel, led := true, ctl := .rdLoop, sector := 0
        df := s.df.set sel { s.drive sel with track := tr, trackPrev := some tr, sectorOffset := 0 }
        store := (storeSeek sel h start s).store, storeIn := s.storeIn.tail, draws := s.draws + 1
        trace := s.trace ++ [.ledOn, .storeSeek sel start (seekOk h start s)] } := by
  have invalid : ((openOperation .rdEntry sel count t s).drive sel).cacheValid = false := by
    rw [openOperation_drive, DriveState.cacheValid, hcache]; rfl
  rw [State.readOpened, readEntry_of_invalid invalid, openOperation_drive, openOperation_eq]
  simp only [Quad.set_set, List.append_assoc, List.cons_append, List.nil_append]
  rfl

end Opened

/-! ## A turn of the loop that ends the operation -/

/-- The state of a reader whose one turn of the loop asked for nothing. -/
def State.dismissed (s : State) (h : Handle) : State := ledOff { s.served h with ctl := .idle }

section Dismissed

variable {h : Handle} {s : State}

/-- Two steps: the turn in which nothing is wanted, and the exit. -/
theorem run_dismissed (hlink : s.linkSelected = false) (hi : s.image? s.sel = some h) (hc : s.ctl = .rdLoop)
    (hsec : s.sector ≤ 10) (hwants : wantsTrack s.sel (readPoll s.sel h s) = false) :
    Sys2Proof.core.run 2 s = .next (s.dismissed h) := by
  have himage : (s.served h).image? (s.served h).sel = some h := by
    rw [s.served_sel, ← hi, State.image?, State.image?, s.served_drive]
  have hexit : wantsTrack (s.served h).sel (s.served h) = false := by
    rw [s.served_sel, State.served, wantsTrack_readServe, hwants]
  exact run_two (step_of_rdLoop hlink hi hc hsec) (step_of_rdNext_exit rfl himage rfl hexit)

/-- A record with the RD flag clear asks for no track (R172, R174). -/
theorem wantsTrack_of_rdClear (d : DriveIx) (hclear : cmdRd (byteAt (received 6 (fillBuffer d h s)) 0) = false) :
    wantsTrack d (readPoll d h s) = false := by
  rw [wantsTrack_readPoll, hclear, Bool.and_false]

theorem dismissed_eq (s : State) (h : Handle) :
    s.dismissed h = { s.served h with ctl := .idle, led := false, trace := (s.served h).trace ++ [.ledOff] } := by
  rw [State.dismissed, ledOff]

theorem readMove_served (hc : s.ctl = .rdLoop) (h : Handle) : ReadMove s.sel h s (s.served h) := by
  rw [State.served]
  exact .serve hc

theorem dismissed_quiet (hc : s.ctl = .rdLoop) : Quiet s (s.dismissed h) := by
  obtain ⟨herror, himages⟩ := (readMove_served hc h).quiet
  have hstore : (s.dismissed h).store = (s.served h).store := by rw [dismissed_eq]
  exact ⟨by rw [dismissed_eq, herror], fun k a => by rw [imageByte, hstore]; exact himages k a⟩

theorem dismissed_events (hc : s.ctl = .rdLoop) : (s.dismissed h).events = s.events := by
  rw [dismissed_eq, (readMove_served hc h).portFrame.events_eq]

theorem dismissed_drive (s : State) (h : Handle) (d : DriveIx) : (s.dismissed h).drive d = s.drive d := by
  rw [State.drive, dismissed_eq, State.served_df]; rfl

theorem dismissed_linkIn (s : State) (h : Handle) : (s.dismissed h).linkIn = s.linkIn.drop 6 := by
  rw [dismissed_eq, State.served_linkIn]

/-- The port events of the two steps: one read, a session of six exchanges and no send, the LED off. -/
theorem dismissed_trace (hwants : wantsTrack s.sel (readPoll s.sel h s) = false) :
    (s.dismissed h).trace =
      s.trace ++ [.storeRead s.sel (fileAt s.store h).cursor (accessOk h s), .linkSelect] ++
        recvEvents (received 6 (fillBuffer s.sel h s)) ++ [.linkDeselect, .ledOff] := by
  rw [dismissed_eq, State.served, readServe_eq, hwants, readPoll_trace]
  simp [sendEvents]

/-- The whole turn, where the controller's record has the RD flag clear. -/
theorem dismissed_of_rdClear {b0 b1 b2 b3 b4 b5 : Byte} {rest : List Byte} (hlink : s.linkSelected = false)
    (hi : s.image? s.sel = some h) (hc : s.ctl = .rdLoop) (hsec : s.sector ≤ 10)
    (hin : s.linkIn = [b0, b1, b2, b3, b4, b5] ++ rest) (hclear : cmdRd b0 = false) :
    Sys2Proof.core.run 2 s = .next (s.dismissed h) ∧ (s.dismissed h).linkIn = rest ∧
      (s.dismissed h).trace =
        s.trace ++ [.storeRead s.sel (fileAt s.store h).cursor (accessOk h s), .linkSelect] ++
          recvEvents [b0, b1, b2, b3, b4, b5] ++ [.linkDeselect, .ledOff] := by
  have hlive : received 6 (fillBuffer s.sel h s) = [b0, b1, b2, b3, b4, b5] := received_of_append hin rfl
  have hwants : wantsTrack s.sel (readPoll s.sel h s) = false :=
    wantsTrack_of_rdClear s.sel (by rw [hlive]; exact hclear)
  refine ⟨run_dismissed hlink hi hc hsec hwants, ?_, ?_⟩
  · rw [dismissed_linkIn, hin]; rfl
  · rw [dismissed_trace hwants, hlive]

end Dismissed

/-! ## The whole command -/

/-- Settles O38: the opening and the entry, then a turn of the loop that ends the operation. -/
theorem rdtrkNothingWanted : Obligations.RdtrkNothingWanted := by
  intro sel h c1 c2 b0 b1 b2 b3 b4 b5 rest s hctl hlink hrd hsel hpresent hfile htracks hcache hin hclear
  obtain rfl : cmdSel c1 = sel := hsel
  have hrun := run_readOpened hctl hlink hrd (image?_eq_some hpresent hfile) c2
  have hopened := readOpened_of_uncached (h := h) hcache (cmdCount c1) c2
  dsimp only at hopened ⊢
  rw [← toNat_clampTrack c2 htracks, BitVec.ofNat_toNat, BitVec.setWidth_eq]
  generalize clampTrack c2 (s.drive (cmdSel c1)).tracks = tr at hopened
  generalize s.readOpened (cmdSel c1) h (cmdCount c1) c2 = u at hopened hrun
  have husel : u.sel = cmdSel c1 := by rw [hopened]
  have huctl : u.ctl = .rdLoop := by rw [hopened]
  have husector : u.sector = 0 := by rw [hopened]
  have hutrace : u.trace = s.trace ++
      [.ledOn, .storeSeek (cmdSel c1) (tr.toNat * 11 * 512) (seekOk h (tr.toNat * 11 * 512) s)] := by rw [hopened]
  have huimages : SameImages s u := by rw [hopened]; exact imageByte_storeSeek (cmdSel c1) h _ s
  have hudrive : u.drive (cmdSel c1) =
      { s.drive (cmdSel c1) with track := tr, trackPrev := some tr, sectorOffset := 0 } := by
    rw [hopened]; exact Quad.get_set_self _ _ _
  have huimage : u.image? u.sel = some h := by
    rw [husel, State.image?, hudrive]
    exact image?_eq_some hpresent hfile
  obtain ⟨hexit, hlinkIn, htrace⟩ := dismissed_of_rdClear (by rw [hopened]; exact hlink) huimage huctl
    (by rw [husector]; decide) (show u.linkIn = [b0, b1, b2, b3, b4, b5] ++ rest by rw [hopened]; exact hin) hclear
  obtain ⟨herror, himages⟩ := dismissed_quiet (h := h) huctl
  refine ⟨u.dismissed h, seekOk h (tr.toNat * 11 * 512) s, accessOk h u, (fileAt u.store h).cursor,
    run_add hrun hexit, rfl, rfl, hlinkIn, ?_, ?_, huimages.trans himages, ?_, ?_, fun hok => ?_⟩
  · rw [dismissed_events huctl, hopened]
  · rw [herror, hopened]
  · rw [dismissed_drive, hudrive]
  · rw [htrace, hutrace, husel]
    simp only [List.append_assoc, List.cons_append, List.nil_append]
  · rw [hopened]
    exact cursor_storeSeek_of_ok hok (cmdSel c1)

end Sys2Proof.Machine
end

section
/-! SUPPORT. The writer's sessions, each as a full next state: FIND_SYNC's stops and its hunt, and the four ways out of
HEADER_STAGE and of DATA_STAGE after its seek. R191 to R193, R197. -/

namespace Sys2Proof.Machine

/-! ## The opening -/

/-- Opening a data session, the live-state fields written out as in R96. -/
theorem openData_registers (s : State) :
    openData s = { s with
      linkSelected := true
      lsStatus := (received 6 s).getD 0 0
      lsTrack := (received 6 s).getD 1 0
      lsSync := (received 6 s).getD 2 0 ++ (received 6 s).getD 3 0
      lsLen := ((received 6 s).getD 4 0).extractLsb' 0 6 ++ (received 6 s).getD 5 0
      lsActive := ((received 6 s).getD 4 0).getLsbD 7
      linkIn := s.linkIn.drop 6, draws := s.draws + 6
      trace := s.trace ++ [.linkSelect] ++ recvEvents (received 6 s) } := by
  rw [openData_eq, wordOf_eq_append, lengthOf_eq_append]
  rfl

theorem received_openData (n : Nat) (s : State) : received n (openData s) = (received (6 + n) s).drop 6 := by
  have opened : received n (openData s) = received n (recv 6 s) := received_congr n rfl rfl
  rw [opened, received_add, List.drop_left' (received_length 6 s)]

theorem recvEvents_append (l m : List Byte) : recvEvents (l ++ m) = recvEvents l ++ recvEvents m := List.map_append

/-- Receiving on in a session just opened: one run of exchanges with those of its live-state read. -/
theorem recv_openData (n : Nat) (s : State) :
    recv n (openData s) = { openData s with
      linkIn := s.linkIn.drop (6 + n), draws := s.draws + (6 + n)
      trace := s.trace ++ [.linkSelect] ++ recvEvents (received (6 + n) s) } := by
  have opened : received n (openData s) = received n (recv 6 s) := received_congr n rfl rfl
  have events : recvEvents (received (6 + n) s) =
      recvEvents (received 6 s) ++ recvEvents (received n (openData s)) := by
    rw [opened, ← recvEvents_append, ← received_add]
  rw [events, ← List.append_assoc, ← openData_trace, ← List.drop_drop, ← Nat.add_assoc]
  rfl

/-- The session a stage opens for its live-state read (R63, R105). -/
theorem exec_liveState_opening (s : State) :
    exec .liveState { s with linkSelected := true, trace := s.trace ++ [.linkSelect] } = .next (openData s) :=
  exec_liveState rfl

/-! ## FIND_SYNC -/

section Hunt

variable {d : DriveIx} {s : State}

theorem exec_findSync (hlink : s.linkSelected = false) : exec (.findSync d) s = .next (findSyncPoll d s) := by
  have free : ¬s.linkSelected = true := by simp [hlink]
  exact if_neg free

/-- What ends the hunt (R191). -/
def HuntStops (d : DriveIx) (s : State) : Prop :=
  s.lsStatus.getLsbD 1 = false ∨ s.lsTrack ≠ (s.drive d).track ∨ (s.lsLen = 0 ∧ s.lsActive = false)

/-- The three stop conditions end the hunt alike. -/
theorem huntWindow_of_stops (h : HuntStops d s) : huntWindow d s = huntOver s := by
  unfold huntWindow
  split_ifs with hwr htrack hnone
  · rfl
  · rfl
  · rfl
  · rcases h with hclear | hother | hended
    · exact absurd hclear hwr
    · exact absurd hother htrack
    · exact absurd hended hnone

theorem huntWindow_of_not_stops (h : ¬HuntStops d s) : huntWindow d s = scanWords s.lsLen.toNat s := by
  have hwr : ¬s.wrRequest = false := fun e => h (.inl e)
  have htrack : ¬s.lsTrack ≠ (s.drive d).track := fun e => h (.inr (.inl e))
  have hnone : ¬(s.lsLen = 0 ∧ s.lsActive = false) := fun e => h (.inr (.inr e))
  rw [huntWindow, if_neg hwr, if_neg htrack, if_neg hnone]

theorem findSyncPoll_of_stops (h : HuntStops d (openData s)) :
    findSyncPoll d s = linkDeselect (huntOver (openData s)) := by
  rw [findSyncPoll, huntWindow_of_stops h]

/-- Settles O39: the conditions of the statement are those on the live state the session has read. -/
theorem findSyncStops : Obligations.FindSyncStops := by
  intro d s hlink b hstop
  have stops : HuntStops d (openData s) := by rw [openData_registers]; exact hstop
  rw [exec_findSync hlink, findSyncPoll_of_stops stops, openData_registers]
  cases s; subst hlink; rfl

/-- Settles O40: the hunt's words are those after the live-state read. -/
theorem findSyncHunts : Obligations.FindSyncHunts := by
  intro d s hlink b len window isSync hwr htrack hgo
  have hlen : (openData s).lsLen = len := by rw [openData_registers]
  have hwindow : received (2 * len.toNat) (openData s) = window := received_openData _ s
  have hunts : ¬HuntStops d (openData s) := by
    rw [openData_registers]
    rintro (hclear | hother | ⟨hzero, hidle⟩)
    · exact absurd (hwr.symm.trans hclear) nofun
    · exact hother htrack
    · exact hgo.elim (fun hne => hne hzero) (fun hactive => absurd (hactive.symm.trans hidle) nofun)
  obtain ⟨found, missed⟩ := scanWords_spec len.toNat (openData s)
  dsimp only at found missed
  rw [hwindow] at found missed
  rw [exec_findSync hlink, findSyncPoll, huntWindow_of_not_stops hunts, hlen]
  refine ⟨fun k hk hsync hfirst => ?_, fun hnone => ?_⟩
  · rw [found k hk hsync hfirst, recv_openData, show 6 + (2 * k + 2) = 8 + 2 * k by omega, openData_registers]
    cases s; subst hlink; rfl
  · rw [missed hnone, recv_openData, openData_registers]
    cases s; subst hlink; rfl

end Hunt

/-! ## HEADER_STAGE -/

section Header

variable {s : State}

theorem exec_headerStage (hlink : s.linkSelected = false) : exec .headerStage s = .next (headerPoll s) := by
  have free : ¬s.linkSelected = true := by simp [hlink]
  exact if_neg free

theorem headerWindow_of_abandoned (hwr : s.lsStatus.getLsbD 1 = false) :
    headerWindow s = { s with ret := some false } := if_pos hwr

theorem not_abandoned (hwr : s.lsStatus.getLsbD 1 = true) : ¬s.wrRequest = false := by
  rw [State.wrRequest, cmdWr, Config.cmdWrBit, hwr]; nofun

theorem headerWindow_of_filled (hwr : s.lsStatus.getLsbD 1 = true) (hlen : Config.hdrMinWords ≤ s.lsLen.toNat) :
    headerWindow s = decodeHeaderBody s := by
  rw [headerWindow, if_neg (not_abandoned hwr), if_pos hlen]

theorem headerWindow_of_underrun (hwr : s.lsStatus.getLsbD 1 = true) (hlen : s.lsLen.toNat < Config.hdrMinWords)
    (hidle : s.lsActive = false) : headerWindow s = raiseErr 20 s := by
  rw [headerWindow, if_neg (not_abandoned hwr), if_neg (not_le.2 hlen), if_pos hidle]
  rfl

theorem headerWindow_of_waiting (hwr : s.lsStatus.getLsbD 1 = true) (hlen : s.lsLen.toNat < Config.hdrMinWords)
    (hactive : s.lsActive = true) : headerWindow s = { s with ret := none } := by
  rw [headerWindow, if_neg (not_abandoned hwr), if_neg (not_le.2 hlen), if_neg (by simp [hactive])]

/-- Settles O41: the stage's frame, then the four ways out of the session its live-state read has opened. -/
theorem headerStageSession : Obligations.HeaderStageSession := by
  intro s hlink
  obtain ⟨hmark, hbuf, hfound⟩ := headerPoll_keeps s
  have hexec : exec .headerStage s = .next (headerPoll s) := exec_headerStage hlink
  refine ⟨⟨headerPoll s, hexec, rfl, hbuf, hfound, hmark, headerPoll_frame s⟩,
    openData s, exec_liveState_opening s, ?_⟩
  rw [hexec, headerPoll]
  refine ⟨fun hwr => ?_, fun hwr hlen => ?_, fun hwr hlen hidle => ?_, fun hwr hlen hactive => ?_⟩
  · rw [headerWindow_of_abandoned hwr]; rfl
  · exact ⟨_, exec_decodeHeader rfl, by rw [headerWindow_of_filled hwr hlen]; rfl⟩
  · rw [headerWindow_of_underrun hwr hlen hidle]; rfl
  · rw [headerWindow_of_waiting hwr hlen hactive]; rfl

end Header

/-! ## DATA_STAGE after its seek -/

section Data

variable {s : State}

theorem exec_dataStage {d : DriveIx} {h : Handle} (hlink : s.linkSelected = false)
    (hf : (s.drive d).file = some h) : exec (.dataStage d) s = .next (dataStagePoll d h s) := by
  show execDataStage d s = _
  simp only [execDataStage, hlink, hf, Bool.false_eq_true, if_false]

theorem exec_dataStage_of_sought {d : DriveIx} {h : Handle} (hlink : s.linkSelected = false)
    (hf : (s.drive d).file = some h) (hsought : s.seekDone = true) :
    exec (.dataStage d) s = .next (dataPoll s) := by
  rw [exec_dataStage hlink hf, dataStagePoll, if_pos hsought]

theorem dataWindow_of_abandoned (hwr : s.lsStatus.getLsbD 1 = false) :
    dataWindow s = { s with ret := some false, seekDone := false } := if_pos hwr

theorem dataWindow_of_filled (hwr : s.lsStatus.getLsbD 1 = true) (hlen : Config.dataMinWords ≤ s.lsLen.toNat) :
    dataWindow s = { decodeDataBody s with seekDone := false } := by
  rw [dataWindow, if_neg (not_abandoned hwr), if_pos hlen]

theorem dataWindow_of_underrun (hwr : s.lsStatus.getLsbD 1 = true) (hlen : s.lsLen.toNat < Config.dataMinWords)
    (hidle : s.lsActive = false) : dataWindow s = { raiseErr 28 s with seekDone := false } := by
  rw [dataWindow, if_neg (not_abandoned hwr), if_neg (not_le.2 hlen), if_pos hidle]

theorem dataWindow_of_waiting (hwr : s.lsStatus.getLsbD 1 = true) (hlen : s.lsLen.toNat < Config.dataMinWords)
    (hactive : s.lsActive = true) : dataWindow s = { s with ret := none } := by
  rw [dataWindow, if_neg (not_abandoned hwr), if_neg (not_le.2 hlen), if_neg (by simp [hactive])]

/-- Settles O43: as O41, with the seek mark cleared unless the stage polls again. -/
theorem dataStageSession : Obligations.DataStageSession := by
  intro d h s hlink hfile hsought
  obtain ⟨htrack, hsector, hfound⟩ := dataPoll_keeps s
  have hexec : exec (.dataStage d) s = .next (dataPoll s) := exec_dataStage_of_sought hlink hfile hsought
  refine ⟨⟨dataPoll s, hexec, rfl, hfound, htrack, hsector, dataPoll_frame s⟩,
    openData s, exec_liveState_opening s, ?_⟩
  rw [hexec, dataPoll]
  refine ⟨fun hwr => ?_, fun hwr hlen => ?_, fun hwr hlen hidle => ?_, fun hwr hlen hactive => ?_⟩
  · rw [dataWindow_of_abandoned hwr]; rfl
  · exact ⟨_, exec_decodeData rfl, by rw [dataWindow_of_filled hwr hlen]; rfl⟩
  · rw [dataWindow_of_underrun hwr hlen hidle]; rfl
  · rw [dataWindow_of_waiting hwr hlen hactive]; rfl

end Data

end Sys2Proof.Machine
end

section
/-! SUPPORT. What the writer does to the Block Store: DATA_STAGE's seek and tell, COMMIT's write, the exit's flush; and
which instruction changes a file's unflushed writes. R193, R194, R196, R255. -/

namespace Sys2Proof.Machine

/-! ## The seek of DATA_STAGE -/

section Seek

variable {d : DriveIx} {h : Handle} {s : State}

/-- DATA_STAGE after its seek and its tell, before the check (R193). -/
def dataTold (d : DriveIx) (h : Handle) (s : State) : State := storeTell d h (dataSought d h s)

theorem dataTold_eq (d : DriveIx) (h : Handle) (s : State) :
    dataTold d h s = { s with
      off := targetOffset d s, store := (dataTold d h s).store, storeIn := s.storeIn.drop 2, draws := s.draws + 2
      trace := s.trace ++ [.storeSeek d (targetOffset d s) (seekOk h (targetOffset d s) s),
        .storeTell d (tellPos h (dataSought d h s))] } := by
  have events : ∀ a b : PortEvent, s.trace ++ [a, b] = s.trace ++ [a] ++ [b] := fun a b => by simp
  rw [events, ← List.tail_drop, List.drop_one]
  rfl

theorem dataTold_linkSelected (d : DriveIx) (h : Handle) (s : State) :
    (dataTold d h s).linkSelected = s.linkSelected := by rw [dataTold_eq]

theorem dataTold_file (d : DriveIx) (h : Handle) (s : State) :
    ((dataTold d h s).drive d).file = (s.drive d).file := by rw [dataTold_eq]; rfl

theorem dataTold_cursorOnly (d : DriveIx) (h : Handle) (s : State) : CursorOnly h s (dataTold d h s) :=
  have sought : CursorOnly h s (dataSought d h s) :=
    (storeSeek_cursorOnly d h (targetOffset d s) { s with off := targetOffset d s }).congr rfl rfl
  sought.trans (storeTell_cursorOnly d h _)

theorem CursorOnly.sameImages {t : State} (only : CursorOnly h s t) : SameImages s t := fun k a => by
  obtain ⟨others, own⟩ := only
  by_cases hk : k = h
  · rw [imageByte, hk, own]; rfl
  · rw [imageByte, others k hk]; rfl

theorem seekLanded_iff : seekLanded d h s = true ↔
    seekOk h (targetOffset d s) s = true ∧ tellPos h (dataSought d h s) = some (targetOffset d s) := by
  rw [seekLanded, Bool.and_eq_true, decide_eq_true_eq]

/-- The tell answers from the second of the two answers, with the cursor where the seek has put it (R64). -/
theorem tellPos_dataSought_of_answers {a b : StoreAnswer} {rest : List StoreAnswer} (hq : s.storeIn = a :: b :: rest)
    (hfits : targetOffset d s ≤ (fileAt s.store h).size) :
    (b.ok = true → a.ok = true → tellPos h (dataSought d h s) = some (targetOffset d s)) ∧
      (b.ok = false → tellPos h (dataSought d h s) = none) := by
  have second : nextAnswer (dataSought d h s) = b := by
    refine nextAnswer_cons (rest := rest) ?_
    show s.storeIn.tail = b :: rest
    rw [hq]; rfl
  rw [tellPos, second]
  refine ⟨fun hb ha => ?_, fun hb => by rw [hb]; rfl⟩
  have sought : seekOk h (targetOffset d s) { s with off := targetOffset d s } = true :=
    (seekOk_of_answer (s := s) hq hfits).trans ha
  rw [if_pos hb, dataSought, cursor_storeSeek_of_ok sought d]

/-- Where the stage has not sought yet and the seek lands, it goes on as one that has sought (R193, R197). -/
theorem exec_dataStage_of_landed (hlink : s.linkSelected = false) (hf : (s.drive d).file = some h)
    (hunsought : s.seekDone = false) (hl : seekLanded d h s = true) :
    exec (.dataStage d) s = exec (.dataStage d) { dataTold d h s with seekDone := true } := by
  have unsought : ¬s.seekDone = true := by simp [hunsought]
  have told : exec (.dataStage d) { dataTold d h s with seekDone := true } =
      .next (dataPoll { dataTold d h s with seekDone := true }) :=
    exec_dataStage_of_sought ((dataTold_linkSelected d h s).trans hlink) ((dataTold_file d h s).trans hf) rfl
  rw [told, exec_dataStage hlink hf, dataStagePoll, if_neg unsought, if_pos hl, dataSeek_of_landed hl, dataTold]

theorem exec_dataStage_of_not_landed (hlink : s.linkSelected = false) (hf : (s.drive d).file = some h)
    (hunsought : s.seekDone = false) (hl : ¬seekLanded d h s = true) :
    exec (.dataStage d) s = .next (raiseErr Config.errSeek (dataTold d h s)) := by
  have unsought : ¬s.seekDone = true := by simp [hunsought]
  rw [exec_dataStage hlink hf, dataStagePoll, if_neg unsought, if_neg hl, dataSeek_of_not_landed hl]
  rfl

/-- Settles O42: the two STORE events, and the check on their answers. -/
theorem dataStageSeeks : Obligations.DataStageSeeks := by
  intro d h s hlink hfile hunsought
  have only := dataTold_cursorOnly d h s
  refine ⟨dataTold d h s, seekOk h (targetOffset d s) s, tellPos h (dataSought d h s), only.sameImages, only,
    dataTold_eq d h s, fun hk hp => ?_, fun hnot => ?_, fun a b rest hq hfits => ?_⟩
  · have landed : seekLanded d h s = true := seekLanded_iff.2 ⟨hk, hp⟩
    exact ⟨(dataSought_landed landed).1, exec_dataStage_of_landed hlink hfile hunsought landed⟩
  · exact exec_dataStage_of_not_landed hlink hfile hunsought fun landed => hnot (seekLanded_iff.1 landed)
  · exact ⟨seekOk_of_answer hq hfits, tellPos_dataSought_of_answers hq hfits⟩

end Seek

/-! ## COMMIT -/

section Commit

variable {d : DriveIx} {h : Handle} {s : State}

theorem exec_commit_of_protected (hlink : s.linkSelected = false) (hw : (s.drive d).writable = false) :
    exec (.commit d) s = .next (raiseErr 30 s) := by
  show execCommit d s = _
  simp only [execCommit, hlink, hw, Bool.false_eq_true, if_false]

/-- Settles O45: the protection is tested before the slot is asked for a file. -/
theorem commitProtected : Obligations.CommitProtected := fun _ _ hlink hw => exec_commit_of_protected hlink hw

theorem exec_commit_of_writable (hlink : s.linkSelected = false) (hw : (s.drive d).writable = true)
    (hf : (s.drive d).file = some h) : exec (.commit d) s = .next (commitWrite d h s) := by
  show execCommit d s = _
  simp only [execCommit, hlink, hw, hf, Bool.false_eq_true, if_false, if_true]

/-- COMMIT as the writer runs it is COMMIT on the slot's own file (R190, R194). -/
theorem exec_commit (hlink : s.linkSelected = false) (hf : (s.drive d).file = some h) :
    exec (.commit d) s = .next (commitSector d h s) := by
  unfold commitSector
  split
  · next hw => exact exec_commit_of_writable hlink hw hf
  · next hw => exact exec_commit_of_protected hlink (by simpa using hw)

/-- A good write moves the cursor on by a block, and the block reads back (R64, R67). -/
theorem storeWrite_of_ok (hok : accessOk h s = true) (d : DriveIx) (blk : Block) :
    (fileAt (storeWrite d h blk s).store h).cursor = (fileAt s.store h).cursor + 512 ∧
      ∀ i < 512, imageByte (storeWrite d h blk s) h ((fileAt s.store h).cursor + i) = blk.bytes.getD i 0 := by
  have serves : (fileAt s.store h).serves = true := (Bool.and_eq_true_iff.1 hok).2
  have fits : (fileAt s.store h).cursor + 512 ≤ (fileAt s.store h).size :=
    of_decide_eq_true (Bool.and_eq_true_iff.1 serves).2
  refine ⟨?_, fun i hi => ?_⟩
  · rw [fileAt_storeWrite, if_pos rfl]; exact if_pos hok
  · rw [imageByte, fileAt_storeWrite, if_pos rfl, if_pos hok, cellAt_writeCells_inside hi (by omega),
      List.getD_eq_getElem]

/-- A write, good or failed, keeps its file's length and lists its cursor as unflushed (R39 (c), R75). -/
theorem storeWrite_lists (d : DriveIx) (h : Handle) (blk : Block) (s : State) :
    (fileAt (storeWrite d h blk s).store h).size = (fileAt s.store h).size ∧
      (fileAt (storeWrite d h blk s).store h).unflushed =
        (fileAt s.store h).unflushed ++ [(fileAt s.store h).cursor] := by
  rw [fileAt_storeWrite, if_pos rfl]
  exact ⟨rfl, rfl⟩

theorem fileAt_storeWrite_of_ne {k : Handle} (hk : k ≠ h) (d : DriveIx) (blk : Block) (s : State) :
    fileAt (storeWrite d h blk s).store k = fileAt s.store k := by
  rw [fileAt_storeWrite, if_neg hk]

theorem commitWrite_store (d : DriveIx) (h : Handle) (s : State) :
    (commitWrite d h s).store = (storeWrite d h s.buf s).store := by rw [commitWrite_eq]

end Commit

/-! ## Unflushed writes -/

/-- Every file lists the same unflushed writes. -/
def SameUnflushed (s t : State) : Prop := ∀ k, (fileAt t.store k).unflushed = (fileAt s.store k).unflushed

theorem sameUnflushed_of_store_eq {s t : State} (h : t.store = s.store) : SameUnflushed s t := fun k => by rw [h]

theorem sameUnflushed_of_outsideSession {s t : State} (h : t.outsideSession = s.outsideSession) :
    SameUnflushed s t := by
  obtain ⟨-, -, -, -, -, hstore, -⟩ := outsideSession_fields h
  exact sameUnflushed_of_store_eq hstore

/-- A seek, a read and a tell leave the lists alone. -/
theorem CursorOnly.sameUnflushed {h : Handle} {s t : State} (only : CursorOnly h s t) : SameUnflushed s t := fun k => by
  obtain ⟨others, own⟩ := only
  by_cases hk : k = h
  · rw [hk, own]
  · rw [others k hk]

theorem readAdvance_sameUnflushed (d : DriveIx) (h : Handle) (s : State) : SameUnflushed s (readAdvance d h s) := by
  unfold readAdvance
  split
  · exact ((storeSeek_cursorOnly d h _ s).congr rfl rfl).sameUnflushed
  · exact sameUnflushed_of_store_eq rfl

/-- The reader's STORE events are seeks and reads. -/
theorem ReadMove.sameUnflushed {d : DriveIx} {h : Handle} {s t : State} (m : ReadMove d h s t) : SameUnflushed s t := by
  cases m with
  | serve _ => exact (readServe_readPoll_cursorOnly d h s).sameUnflushed
  | next _ =>
    unfold readNext
    split
    · exact readAdvance_sameUnflushed d h s
    · exact sameUnflushed_of_store_eq rfl
  | entry _ _ => exact (readEntry_cursorOnly d h s).sameUnflushed

/-- DATA_STAGE's STORE events are a seek and a tell. -/
theorem dataStagePoll_sameUnflushed (d : DriveIx) (h : Handle) (s : State) :
    SameUnflushed s (dataStagePoll d h s) := by
  have sought : SameUnflushed s (dataSeek d h s) := by
    refine ((dataTold_cursorOnly d h s).congr (t' := dataSeek d h s) rfl ?_).sameUnflushed
    unfold dataSeek; split <;> rfl
  unfold dataStagePoll
  split_ifs
  · exact sameUnflushed_of_outsideSession (dataPoll_frame s)
  · exact fun k => (sameUnflushed_of_outsideSession (dataPoll_frame _) k).trans (sought k)
  · exact sought

/-- What changes a file's list: a COMMIT on a writable drive adds the cursor to its own file's. -/
def ListsCursor (d : DriveIx) (s t : State) (k : Handle) : Prop :=
  (s.drive d).file = some k ∧ (s.drive d).writable = true ∧
    (fileAt t.store k).unflushed = (fileAt s.store k).unflushed ++ [(fileAt s.store k).cursor]

theorem commitWrite_unflushed {d : DriveIx} {h k : Handle} {s : State} (hw : (s.drive d).writable = true)
    (hf : (s.drive d).file = some h)
    (hne : (fileAt (commitWrite d h s).store k).unflushed ≠ (fileAt s.store k).unflushed) :
    ListsCursor d s (commitWrite d h s) k := by
  rw [commitWrite_store] at hne
  obtain rfl : k = h := by
    by_contra hk
    exact hne (by rw [fileAt_storeWrite_of_ne hk])
  refine ⟨hf, hw, ?_⟩
  rw [commitWrite_store]
  exact (storeWrite_lists d k s.buf s).2

theorem commitSector_unflushed {d : DriveIx} {h k : Handle} {s : State} (hf : (s.drive d).file = some h)
    (hne : (fileAt (commitSector d h s).store k).unflushed ≠ (fileAt s.store k).unflushed) :
    ListsCursor d s (commitSector d h s) k := by
  unfold commitSector at hne ⊢
  split at hne
  · next hw => rw [if_pos hw]; exact commitWrite_unflushed hw hf hne
  · exact absurd rfl hne

/-- A flush changes a list only where it is ok, and then empties its own file's (R75, log 23). -/
theorem storeFlush_unflushed {d : DriveIx} {h k : Handle} {s : State}
    (hne : (fileAt (storeFlush d h s).store k).unflushed ≠ (fileAt s.store k).unflushed) :
    k = h ∧ (nextAnswer s).ok = true ∧ (fileAt (storeFlush d h s).store k).unflushed = [] := by
  rw [fileAt_storeFlush] at hne ⊢
  split_ifs at hne ⊢ with hk hok
  · exact ⟨hk, hok, rfl⟩
  · exact absurd (by rw [hk]) hne
  · exact absurd rfl hne

theorem execCommit_unflushed {d : DriveIx} {k : Handle} {s t : State} (h : execCommit d s = .next t)
    (hne : (fileAt t.store k).unflushed ≠ (fileAt s.store k).unflushed) : ListsCursor d s t k := by
  obtain ⟨-, h⟩ := next_of_guard h
  split_ifs at h with hw
  · split at h
    · cases h
    · next f hf => cases h; exact commitWrite_unflushed hw hf hne
  · cases h; exact absurd rfl hne

/-- Of WRITE_TRACK's transitions COMMIT and the exit alone change a list. -/
theorem WriteMove.unflushed {d : DriveIx} {h k : Handle} {s t : State} (m : WriteMove d h s t)
    (hf : (s.drive d).file = some h) (hne : (fileAt t.store k).unflushed ≠ (fileAt s.store k).unflushed) :
    (s.ctl = .commit ∧ ListsCursor d s t k) ∨
      (s.ctl = .wrExit ∧ k = h ∧ t.trace = s.trace ++ [.storeFlush d true] ∧ (fileAt t.store k).unflushed = []) := by
  cases m with
  | hunt _ =>
    rw [afterHunt_store] at hne
    exact absurd (sameUnflushed_of_outsideSession (findSyncPoll_frame d s) k) hne
  | header _ =>
    rw [afterHeader_store] at hne
    exact absurd (sameUnflushed_of_outsideSession (headerPoll_frame s) k) hne
  | data _ =>
    rw [afterData_store] at hne
    exact absurd (dataStagePoll_sameUnflushed d h s k) hne
  | commit hc => exact .inl ⟨hc, commitSector_unflushed hf hne⟩
  | report _ => exact absurd rfl hne
  | exit hc =>
    obtain ⟨hk, hok, hnone⟩ := storeFlush_unflushed (d := d) hne
    refine .inr ⟨hc, hk, ?_, hnone⟩
    rw [← hok]; rfl
  | entry _ => exact absurd rfl hne

/-- An instruction that is neither WRITE_TRACK nor COMMIT changes no list. -/
theorem exec_sameUnflushed {i : Instr} {s t : State} (h : exec i s = .next t) (hwrite : ∀ d, i ≠ .writeTrack d)
    (hcommit : ∀ d, i ≠ .commit d) : SameUnflushed s t := by
  have opened : ∀ {entry sel count tr}, startOperation entry sel count tr s = .next t → SameUnflushed s t := by
    intro _ _ _ _ h
    obtain ⟨-, -, rfl⟩ := startOperation_next h
    exact sameUnflushed_of_store_eq rfl
  cases i with
  | rdtrk sel count tr => exact opened h
  | wrtrk sel count tr => exact opened h
  | idle count => rw [idleCommand_next h]; exact sameUnflushed_of_store_eq rfl
  | drvstat => rw [execDrvstat_next h]; exact sameUnflushed_of_store_eq rfl
  | mount d f n w => obtain ⟨-, rfl⟩ := execMount_next h; exact sameUnflushed_of_store_eq rfl
  | unmount d => obtain rfl := execUnmount_next h; exact sameUnflushed_of_store_eq rfl
  | handleCmd c1 c2 =>
    rcases execHandleCmd_next h with ⟨entry, -, h⟩ | rfl
    · exact opened h
    · exact sameUnflushed_of_store_eq rfl
  | setTrack sel tr => cases h; exact sameUnflushed_of_store_eq rfl
  | readTrack d => obtain ⟨_, -, m⟩ := execReadTrack_next h; exact m.sameUnflushed
  | liveState => obtain ⟨-, h⟩ := next_of_guard h; cases h; exact sameUnflushed_of_store_eq rfl
  | encodeSector sec tr sync =>
    obtain ⟨-, h⟩ := next_of_guard h
    obtain ⟨-, h⟩ := next_of_guard h
    cases h; exact sameUnflushed_of_store_eq rfl
  | sendGap => obtain ⟨-, h⟩ := next_of_guard h; cases h; exact sameUnflushed_of_store_eq rfl
  | writeTrack d => exact absurd rfl (hwrite d)
  | findSync d =>
    obtain ⟨-, h⟩ := next_of_guard h
    cases h; exact sameUnflushed_of_outsideSession (findSyncPoll_frame d s)
  | headerStage =>
    obtain ⟨-, h⟩ := next_of_guard h
    cases h; exact sameUnflushed_of_outsideSession (headerPoll_frame s)
  | decodeHeader =>
    obtain ⟨-, h⟩ := next_of_guard h
    cases h; exact sameUnflushed_of_outsideSession (decodeHeaderBody_frame s)
  | dataStage d =>
    obtain ⟨-, h⟩ := next_of_guard h
    split at h
    · cases h
    · cases h; exact dataStagePoll_sameUnflushed d _ s
  | decodeData =>
    obtain ⟨-, h⟩ := next_of_guard h
    cases h; exact sameUnflushed_of_outsideSession (decodeDataBody_frame s)
  | commit d => exact absurd rfl (hcommit d)

/-- Settles O44: the write by its rules, then the two instructions that may change a list. -/
theorem commitWritesSector : Obligations.CommitWritesSector := by
  refine ⟨fun d h s hlink hw hf => ?write, fun i s t k hx hne => ?list⟩
  case write =>
    obtain ⟨hsize, hlisted⟩ := storeWrite_lists d h s.buf s
    refine ⟨commitWrite d h s, accessOk h s, exec_commit_of_writable hlink hw hf, by rw [commitWrite_eq]; rfl, ?_⟩
    simp only [imageByte, commitWrite_store]
    exact ⟨fun hok => storeWrite_of_ok hok d s.buf, imageByte_storeWrite_outside d h s.buf s,
      fun k hk => fileAt_storeWrite_of_ne hk d s.buf s, hsize, hlisted,
      fun a rest hq haligned hfits => accessOk_of_answer hq haligned hfits⟩
  case list =>
    by_cases hcommit : ∃ d, i = .commit d
    · obtain ⟨d, rfl⟩ := hcommit
      obtain ⟨hf, hw, hlisted⟩ := execCommit_unflushed hx hne
      exact ⟨d, hf, .inl ⟨.inl rfl, hw, hlisted⟩⟩
    by_cases hwrite : ∃ d, i = .writeTrack d
    · obtain ⟨d, rfl⟩ := hwrite
      obtain ⟨h, hi, m⟩ := execWriteTrack_next hx
      have hfile := (image?_some hi).2
      rcases m.unflushed hfile hne with ⟨hc, hf, hw, hlisted⟩ | ⟨hc, rfl, htrace, hnone⟩
      · exact ⟨d, hf, .inl ⟨.inr ⟨rfl, hc⟩, hw, hlisted⟩⟩
      · exact ⟨d, hfile, .inr ⟨rfl, hc, htrace, hnone⟩⟩
    exact absurd (exec_sameUnflushed hx (not_exists.1 hwrite) (not_exists.1 hcommit) k) hne

end Sys2Proof.Machine
end

section
/-! SUPPORT. WRITE_TRACK's transitions one by one, each as a full next state: the entry, the report, the exit, and the
stages followed by the transition table. R190, R192, R195 to R197. -/

namespace Sys2Proof.Machine

section Moves

variable {d : DriveIx} {h : Handle} {s : State}

/-- The converse of `execWriteTrack_next`: outside a session, for a mounted drive, the move that the phase names is what
WRITE_TRACK does (R197). -/
theorem exec_writeTrack {t : State} (hlink : s.linkSelected = false) (hi : s.image? d = some h)
    (m : WriteMove d h s t) : exec (.writeTrack d) s = .next t := by
  show execWriteTrack d s = .next t
  cases m with
  | hunt hc | header hc | data hc | commit hc | report hc | exit hc => simp [execWriteTrack, hlink, hi, hc]
  | entry hc =>
    cases hctl : s.ctl with
    | seekSync | header | data | commit | wrReport | wrExit => rw [hctl] at hc; exact absurd (hc rfl) nofun
    | _ => simp [execWriteTrack, hlink, hi, hctl]

theorem returnFromErr_of_ne (he : s.error ≠ 0) :
    returnFromErr s = { s with
      ctl := .seekSync, error := 0, trace := s.trace ++ [.report Config.reportMsg s.error] } := by
  rw [returnFromErr, if_neg he]

theorem returnFromErr_of_eq (he : s.error = 0) : returnFromErr s = { s with ctl := .seekSync } := by
  rw [returnFromErr, if_pos he, List.append_nil, ← he]

/-- An ok flush only empties its file's list (R64, R75). -/
theorem fileAt_storeFlush_of_ok (hok : (nextAnswer s).ok = true) (d : DriveIx) (h : Handle) :
    fileAt (storeFlush d h s).store h = { fileAt s.store h with unflushed := [] } := by
  rw [fileAt_storeFlush, if_pos rfl, hok]; rfl

/-- A failed flush only moves its file's cursor (R67, log 23). -/
theorem storeFlush_cursorOnly_of_failed (hfail : (nextAnswer s).ok = false) (d : DriveIx) (h : Handle) :
    CursorOnly h s (storeFlush d h s) := by
  refine ⟨fun k hk => ?_, ?_⟩
  · rw [fileAt_storeFlush, if_neg hk]
  · rw [fileAt_storeFlush, if_pos rfl, hfail]; rfl

end Moves

/-- Settles O47, phase by phase. -/
theorem writerEntryReportExit : Obligations.WriterEntryReportExit := by
  intro d h s hlink hpresent hfile
  have hi : s.image? d = some h := image?_eq_some hpresent hfile
  refine ⟨fun hc => exec_writeTrack hlink hi (.entry fun _ => hc), fun hc he => ?_, fun hc he => ?_, fun hc => ?_⟩
  · rw [exec_writeTrack hlink hi (.report hc), returnFromErr_of_ne he]
  · rw [exec_writeTrack hlink hi (.report hc), returnFromErr_of_eq he]
  · refine ⟨_, (nextAnswer s).ok, exec_writeTrack hlink hi (.exit hc), imageByte_storeFlush d h s, rfl, fun k hk => ?_,
      fun hok => fileAt_storeFlush_of_ok hok d h, fun hfail => (storeFlush_cursorOnly_of_failed hfail d h).2,
      fun a rest hq => by rw [nextAnswer_cons hq]⟩
    exact (fileAt_storeFlush d h s k).trans (if_neg hk)

/-- Settles O48: the stage's own instruction gives the state that the transition goes on from. -/
theorem writerFollowsTable : Obligations.WriterFollowsTable := by
  intro d h s u hlink hpresent hfile
  have hi : s.image? d = some h := image?_eq_some hpresent hfile
  refine ⟨fun hc hx => ?hunt, fun hc hx => ?header, fun hc hx => ?data, fun hc hx => ?commit⟩
  case hunt =>
    rw [exec_findSync hlink] at hx
    cases hx
    rw [exec_writeTrack hlink hi (.hunt hc)]
    exact ⟨fun hret => by rw [afterHunt_of_true hret], fun hret => by rw [afterHunt_of_false hret],
      fun hret => by rw [afterHunt_of_none hret]⟩
  case header =>
    rw [exec_headerStage hlink] at hx
    cases hx
    have record : (headerPoll s).drive d = s.drive d := (headerPoll_stageFrame s).drive_eq d
    rw [exec_writeTrack hlink hi (.header hc), ← record]
    refine ⟨fun hret htrack => ?_, fun hret htrack => ?_, fun hret => by rw [afterHeader_of_false d hret],
      fun hret => by rw [afterHeader_of_none d hret]⟩
    · rw [afterHeader_of_true d hret, if_pos htrack]
    · rw [afterHeader_of_true d hret, if_neg htrack]; rfl
  case data =>
    rw [exec_dataStage hlink hfile] at hx
    cases hx
    rw [exec_writeTrack hlink hi (.data hc)]
    exact ⟨fun hret => by rw [afterData_of_true hret], fun hret => by rw [afterData_of_false hret],
      fun hret => by rw [afterData_of_none hret]⟩
  case commit =>
    rw [exec_commit hlink hfile] at hx
    cases hx
    exact exec_writeTrack hlink hi (.commit hc)

end Sys2Proof.Machine
end

section
/-! SUPPORT. The WRTRK whose first hunt stops at once: the opening, the entry, one session and the exit's flush, each
one step. R190, R191, R196, R233, R238. -/

namespace Sys2Proof.Machine

/-! ## The writer's steps -/

section Steps

variable {h : Handle} {s t : State}

/-- A move of WRITE_TRACK and the LED bracket are the step (R33, R238). -/
theorem step_of_writeMove (hw : s.ctl.writing = true) (hlink : s.linkSelected = false)
    (hi : s.image? s.sel = some h) (m : WriteMove s.sel h s t) : step s = .next (bracketed t) := by
  rw [step_of_writing hw, exec_writeTrack hlink hi m]
  rfl

/-- A write command at the head of the queue opens the writer (R230, R233). -/
theorem step_of_writeCommand {c1 : Byte} (hc : s.ctl = .idle) (hlink : s.linkSelected = false)
    (hrd : cmdRd c1 = false) (hwr : cmdWr c1 = true) (hp : (s.drive (cmdSel c1)).present = true) (c2 : Byte) :
    step { s with events := .command c1 c2 :: s.events } =
      .next (openOperation .wrEntry (cmdSel c1) (cmdCount c1) c2 s) := by
  refine (step_of_idle_cons (s := { s with events := .command c1 c2 :: s.events }) hc rfl).trans ?_
  rw [fetchEvent, decodeCommand_of_wr hrd hwr]
  exact startOperation_of_present hc hlink hp _ _ _

/-- The entry's step (R190). -/
theorem step_of_wrEntry (hlink : s.linkSelected = false) (hi : s.image? s.sel = some h) (hc : s.ctl = .wrEntry) :
    step s = .next (writeEntry s.sel s) := by
  rw [step_of_writeMove (by rw [hc]; rfl) hlink hi (.entry fun _ => hc), bracketed_of_ne]
  nofun

end Steps

/-! ## The opening and the entry -/

/-- The writer about to hunt, opened by a write command and entered. -/
def State.writeOpened (s : State) (sel : DriveIx) (count : BitVec 2) (t : Byte) : State :=
  writeEntry sel (openOperation .wrEntry sel count t s)

/-- After two steps the track is set and the read cache invalidated (R190, R231). -/
theorem writeOpened_eq (s : State) (sel : DriveIx) (count : BitVec 2) (t : Byte) :
    s.writeOpened sel count t = { s with
      drives := count, sel := sel, led := true, ctl := .seekSync, trace := s.trace ++ [.ledOn]
      df := s.df.set sel { s.drive sel with track := clampTrack t (s.drive sel).tracks, trackPrev := none } } := by
  rw [State.writeOpened, writeEntry, openOperation_drive, setDrive, openOperation_eq]
  simp only [Quad.set_set]

theorem run_writeOpened {h : Handle} {s : State} {c1 : Byte} (hc : s.ctl = .idle) (hlink : s.linkSelected = false)
    (hrd : cmdRd c1 = false) (hwr : cmdWr c1 = true) (hi : s.image? (cmdSel c1) = some h) (c2 : Byte) :
    Sys2Proof.core.run 2 { s with events := .command c1 c2 :: s.events } =
      .next (s.writeOpened (cmdSel c1) (cmdCount c1) c2) :=
  run_two (step_of_writeCommand hc hlink hrd hwr (image?_some hi).1 c2)
    (step_of_wrEntry hlink (openOperation_image? hi _ _ _) rfl)

/-! ## A hunt that stops, and the exit -/

/-- The writer in WR_EXIT after a hunt that was stopped. -/
def State.huntEnded (s : State) : State := { linkDeselect (huntOver (openData s)) with ctl := .wrExit }

section Ended

variable (s : State)

@[simp] theorem huntEnded_ctl : s.huntEnded.ctl = .wrExit := rfl

@[simp] theorem huntEnded_linkSelected : s.huntEnded.linkSelected = false := rfl

@[simp] theorem huntEnded_sel : s.huntEnded.sel = s.sel := by simp [State.huntEnded]

@[simp] theorem huntEnded_df : s.huntEnded.df = s.df := by simp [State.huntEnded]

@[simp] theorem huntEnded_error : s.huntEnded.error = s.error := by simp [State.huntEnded]

@[simp] theorem huntEnded_store : s.huntEnded.store = s.store := by simp [State.huntEnded]

@[simp] theorem huntEnded_events : s.huntEnded.events = s.events := by simp [State.huntEnded]

@[simp] theorem huntEnded_linkIn : s.huntEnded.linkIn = s.linkIn.drop 6 := by simp [State.huntEnded]

@[simp] theorem huntEnded_trace :
    s.huntEnded.trace = s.trace ++ [.linkSelect] ++ recvEvents (received 6 s) ++ [.linkDeselect] := by
  simp [State.huntEnded]

end Ended

/-- The writer's operation closed from WR_EXIT: flushed, in IDLE, the LED off. -/
def State.writeClosed (s : State) (h : Handle) : State := ledOff { storeFlush s.sel h s with ctl := .idle }

/-- The exit's step (R196, R238). -/
theorem step_of_wrExit {h : Handle} {s : State} (hlink : s.linkSelected = false) (hi : s.image? s.sel = some h)
    (hc : s.ctl = .wrExit) : step s = .next (s.writeClosed h) := by
  rw [step_of_writeMove (by rw [hc]; rfl) hlink hi (.exit hc), bracketed_of_idle rfl, State.writeClosed]

theorem writeClosed_eq (s : State) (h : Handle) :
    s.writeClosed h = { s with
      ctl := .idle, led := false, store := (storeFlush s.sel h s).store, storeIn := s.storeIn.tail
      draws := s.draws + 1, trace := s.trace ++ [.storeFlush s.sel (nextAnswer s).ok] ++ [.ledOff] } := rfl

theorem writeClosed_sameImages (s : State) (h : Handle) : SameImages s (s.writeClosed h) := by
  rw [writeClosed_eq]; exact imageByte_storeFlush s.sel h s

section Closed

variable {h : Handle} {s : State}

/-- The session that stops the hunt (R191, R197). -/
theorem step_of_stoppedHunt (hlink : s.linkSelected = false) (hi : s.image? s.sel = some h) (hc : s.ctl = .seekSync)
    (stops : HuntStops s.sel (openData s)) : step s = .next s.huntEnded := by
  have hunted : afterHunt (findSyncPoll s.sel s) = s.huntEnded := by
    rw [findSyncPoll_of_stops stops, afterHunt_of_false rfl, State.huntEnded]
  rw [step_of_writeMove (by rw [hc]; rfl) hlink hi (.hunt hc), hunted, bracketed_of_ne]
  rw [huntEnded_ctl]; nofun

/-- Two steps: the session that stops the hunt, and the exit. -/
theorem run_huntEnded_writeClosed (hlink : s.linkSelected = false) (hi : s.image? s.sel = some h)
    (hc : s.ctl = .seekSync) (stops : HuntStops s.sel (openData s)) :
    Sys2Proof.core.run 2 s = .next (s.huntEnded.writeClosed h) := by
  have himage : s.huntEnded.image? s.huntEnded.sel = some h := by
    rw [huntEnded_sel, State.image?, State.drive, huntEnded_df]; exact hi
  exact run_two (step_of_stoppedHunt hlink hi hc stops)
    (step_of_wrExit (huntEnded_linkSelected s) himage (huntEnded_ctl s))

/-- A live state with the write request clear stops the hunt (R191). -/
theorem huntStops_of_wrClear {d : DriveIx} (hclear : cmdWr (byteAt (received 6 s) 0) = false) :
    HuntStops d (openData s) := .inl hclear

end Closed

/-! ## The whole command -/

/-- Settles O49: the opening and the entry, then the session that stops the hunt and the exit. -/
theorem wrtrkStopsAtOnce : Obligations.WrtrkStopsAtOnce := by
  intro sel h c1 c2 b0 b1 b2 b3 b4 b5 rest s hctl hlink hrd hwr hsel hpresent hfile htracks hin hclear
  obtain rfl : cmdSel c1 = sel := hsel
  have hrun := run_writeOpened hctl hlink hrd hwr (image?_eq_some hpresent hfile) c2
  have hopened := writeOpened_eq s (cmdSel c1) (cmdCount c1) c2
  generalize s.writeOpened (cmdSel c1) (cmdCount c1) c2 = u at hopened hrun
  have husel : u.sel = cmdSel c1 := by rw [hopened]
  have hudrive : u.drive (cmdSel c1) =
      { s.drive (cmdSel c1) with track := clampTrack c2 (s.drive (cmdSel c1)).tracks, trackPrev := none } := by
    rw [hopened]; exact Quad.get_set_self _ _ _
  have huimage : u.image? u.sel = some h := by
    rw [husel, State.image?, hudrive]
    exact image?_eq_some hpresent hfile
  have huin : u.linkIn = [b0, b1, b2, b3, b4, b5] ++ rest := by rw [hopened]; exact hin
  have hlive : received 6 u = [b0, b1, b2, b3, b4, b5] := received_of_append huin rfl
  have stops : HuntStops u.sel (openData u) := huntStops_of_wrClear (by rw [hlive]; exact hclear)
  have hclosed := run_huntEnded_writeClosed (by rw [hopened]; exact hlink) huimage (by rw [hopened]) stops
  have himages : SameImages s u.huntEnded := sameImages_of_store_eq (by rw [huntEnded_store, hopened])
  have htrace : u.trace = s.trace ++ [.ledOn] := by rw [hopened]
  have herror : u.error = s.error := by rw [hopened]
  have hevents : u.events = s.events := by rw [hopened]
  refine ⟨u.huntEnded.writeClosed h, (nextAnswer u.huntEnded).ok, run_add hrun hclosed, ?_, ?_, ?_, ?_, ?_,
    himages.trans (writeClosed_sameImages _ h), ?_, ?_⟩
  · rw [writeClosed_eq]
  · rw [writeClosed_eq]
  · rw [writeClosed_eq, huntEnded_linkIn, huin]; rfl
  · rw [writeClosed_eq, huntEnded_events, hevents]
  · rw [writeClosed_eq, huntEnded_error, herror]
  · rw [writeClosed_eq, State.drive, huntEnded_df, ← clampTrack_eq_min c2 htracks]; exact hudrive
  · rw [writeClosed_eq, huntEnded_trace, huntEnded_sel, htrace, hlive, husel]
    simp only [List.append_assoc, List.cons_append, List.nil_append]

end Sys2Proof.Machine
end

section
/-! SUPPORT. The Dispatcher's instructions as full next states, and the step in IDLE that runs them. R230 to R237. -/

namespace Sys2Proof.Machine

/-! ## The step in IDLE -/

/-- Settles O5: two bytes decode to one instruction, which is the one the step fetches. -/
theorem stepRunsDecodedCommand : Obligations.StepRunsDecodedCommand := by
  intro s c1 c2 rest i hc he hdecode _
  rw [decode_pair] at hdecode
  cases hdecode
  exact step_of_idle_cons hc he

/-- Settles O6: a HOST event is fetched as it is. -/
theorem stepRunsHostEvent : Obligations.StepRunsHostEvent := fun _ _ hc =>
  ⟨fun _ _ _ _ he => step_of_idle_cons hc he, fun _ he => step_of_idle_cons hc he⟩

/-! ## The commands -/

section Commands

variable {s : State} {sel : DriveIx} {c1 : Byte}

/-- The opening of an operation on a drive with tracks: the state the entry phase starts from (R230, R231). -/
theorem startOperation_of_tracks (hc : s.ctl = .idle) (hlink : s.linkSelected = false)
    (hp : (s.drive sel).present = true) (hn : (s.drive sel).tracks ≠ 0) (entry : Ctl) (count : BitVec 2) (t : Byte) :
    startOperation entry sel count t s = .next { s with
      drives := count, sel := sel, led := true, ctl := entry, trace := s.trace ++ [.ledOn]
      df := s.df.set sel { s.drive sel with
        track := BitVec.ofNat 8 (min t.toNat ((s.drive sel).tracks.toNat - 1)) } } := by
  rw [startOperation_of_present hc hlink hp, openOperation_eq, clampTrack_eq_min t hn]

theorem openOperation_drive_of_ne {d : DriveIx} (hd : d ≠ sel) (entry : Ctl) (count : BitVec 2) (t : Byte) :
    (openOperation entry sel count t s).drive d = s.drive d :=
  Quad.get_set_of_ne _ _ hd

theorem exec_idle (hc : s.ctl = .idle) (count : BitVec 2) : exec (.idle count) s = .next { s with drives := count } :=
  if_neg (not_not.2 hc)

/-- With a flag HANDLE_CMD opens the reader or the writer, the RD flag deciding (R93, R230). -/
theorem exec_handleCmd_of_flag (hc : s.ctl = .idle) (hlink : s.linkSelected = false)
    (hp : (s.drive (cmdSel c1)).present = true) (hflag : cmdRd c1 = true ∨ cmdWr c1 = true) (c2 : Byte) :
    exec (.handleCmd c1 c2) s =
      .next (openOperation (if cmdRd c1 then .rdEntry else .wrEntry) (cmdSel c1) (cmdCount c1) c2 s) := by
  rw [← startOperation_of_present hc hlink hp]
  show execHandleCmd c1 c2 s = _
  cases hrd : cmdRd c1 with
  | true => simp [execHandleCmd, hrd]
  | false =>
    have hwr : cmdWr c1 = true := hflag.resolve_left (by simp [hrd])
    simp [execHandleCmd, hrd, hwr]

end Commands

/-- Settles O13: the clamp of a drive with tracks is the minimum. -/
theorem setTrackClamps : Obligations.SetTrackClamps := by
  intro sel t s hn
  rw [← clampTrack_eq_min t hn]
  rfl

/-- Settles O9: the opening, with the reader's entry. -/
theorem rdtrkOpensRead : Obligations.RdtrkOpensRead := fun _ count t _ hc hlink hp hn =>
  startOperation_of_tracks hc hlink hp hn .rdEntry count t

/-- Settles O10: the opening, with the writer's entry. -/
theorem wrtrkOpensWrite : Obligations.WrtrkOpensWrite := fun _ count t _ hc hlink hp hn =>
  startOperation_of_tracks hc hlink hp hn .wrEntry count t

/-- Settles O11: with both flags clear the bytes decode to IDLE with their COUNT. -/
theorem idleCommandWritesDrivesOnly : Obligations.IdleCommandWritesDrivesOnly := by
  refine ⟨fun count s hc => exec_idle hc count, fun c1 c2 s hc hrd hwr => ?_⟩
  have hdecode : decode [c1, c2] = .ok (.idle (cmdCount c1)) := by
    rw [decode_pair, decodeCommand_of_noFlag hrd hwr]
  calc step { s with events := .command c1 c2 :: s.events }
      = exec (.idle (cmdCount c1)) s := stepRunsDecodedCommand _ c1 c2 s.events _ hc rfl hdecode rfl
    _ = .next { s with drives := c1.extractLsb' 4 2 } := exec_idle hc _

/-- Settles O12: HANDLE_CMD is its decoded command, which opens an operation or is IDLE. -/
theorem handleCmdDispatches : Obligations.HandleCmdDispatches := by
  intro c1 c2 s hc
  refine ⟨fun i hdecode => ?decoded, fun hlink hp hflag => ?opens, fun hrd hwr => ?idle⟩
  case decoded =>
    rw [decode_pair] at hdecode
    cases hdecode
    exact (exec_decodeCommand c1 c2 s).symm
  case opens =>
    exact ⟨_, exec_handleCmd_of_flag hc hlink hp hflag c2, rfl, rfl, rfl, rfl, rfl, rfl, rfl, rfl,
      fun d hd => openOperation_drive_of_ne hd _ _ _⟩
  case idle =>
    calc exec (.handleCmd c1 c2) s
        = exec (decodeCommand c1 c2) s := (exec_decodeCommand c1 c2 s).symm
      _ = exec (.idle (cmdCount c1)) s := by rw [decodeCommand_of_noFlag hrd hwr]
      _ = .next { s with drives := c1.extractLsb' 4 2 } := exec_idle hc _

/-! ## The status report, MOUNT and UNMOUNT -/

section StatusReport

variable {s : State}

/-- The session of R235 carries the status byte whole: the mask of R97 clears no bit of it. -/
theorem statusSession_eq (df : Quad DriveState) :
    statusSession df =
      [.linkSelect, .xfer Config.opDrvstat none, .xfer (statusReport df) none, .linkDeselect] := by
  have whole : statusReport df &&& 0xFF = statusReport df := BitVec.and_allOnes
  rw [← whole]
  rfl

/-- The report opens and closes its session: a free LINK is free again after it (R62, R235). -/
theorem reportStatus_of_linkFree (hlink : s.linkSelected = false) :
    reportStatus s = { s with ctl := .idle, trace := s.trace ++ statusSession s.df } := by
  rw [reportStatus_eq, statusSession_eq, ← hlink]

/-- A HOST event's whole effect in IDLE: one record written, the new table reported (R236, R237). -/
theorem reportStatus_setDrive (hc : s.ctl = .idle) (hlink : s.linkSelected = false) (d : DriveIx) (r : DriveState) :
    reportStatus (setDrive d r s) = { s with
      df := s.df.set d r, trace := s.trace ++ statusSession (s.df.set d r) } := by
  rw [reportStatus_of_linkFree (s := setDrive d r s) hlink, ← hc]
  rfl

theorem hostEvent_of_linkFree (hc : s.ctl = .idle) (hlink : s.linkSelected = false) (u : State) :
    hostEvent s u = .next u := by
  simp [hostEvent, hc, hlink]

/-- The two flags of R26 as the byte MOUNT writes (R236). -/
theorem mountStatus_eq (w : Bool) : mountStatus w = 0x01 ||| (if w then 0x10 else 0x00) := by
  cases w <;> rfl

end StatusReport

/-- Settles O15: the guard passes, and the report is its session. -/
theorem drvstatSendsStatus : Obligations.DrvstatSendsStatus := by
  intro s hlink
  have accepted : exec .drvstat s = .next (reportStatus s) := if_neg (by rw [hlink]; nofun)
  rw [accepted, reportStatus_of_linkFree hlink]

/-- Settles O17: the record is written and then the new table reported. -/
theorem mountResetsSlot : Obligations.MountResetsSlot := by
  intro d f n w s hn hc hlink
  have accepted : exec (.mount d f n w) s = .next (reportStatus (setDrive d (mountedDrive f n w) s)) :=
    (if_neg hn).trans (hostEvent_of_linkFree hc hlink _)
  rw [accepted, reportStatus_setDrive hc hlink, mountedDrive, mountStatus_eq]

/-- Settles O18: the three unspecified fields are the model's free values at its draw counter. -/
theorem unmountClearsSlot : Obligations.UnmountClearsSlot := by
  intro d s hc hlink
  refine ⟨Config.freeTrack s.draws, Config.freeTracks s.draws, Config.freeSectorOffset s.draws, ?_⟩
  have reported := reportStatus_setDrive (s := { s with draws := s.draws + 1 }) hc hlink d (unmountedDrive s.draws)
  exact (hostEvent_of_linkFree hc hlink _).trans (congrArg Host.Outcome.next reported)

end Sys2Proof.Machine
end

section
/-! SUPPORT. Every step answers: the error codes of the Block Store are bytes that can be reported, a waiting event inside
the preconditions is accepted, and a running operation finds what its phase needs. R28, R33, R230, R250, R255, U1, U10. -/

namespace Sys2Proof.Machine

/-! ## The storage error codes -/

/-- A code built as the successor of a number below 255 does not wrap round to 0. -/
theorem ofNat_succ_ne_zero (n : Fin 255) : BitVec.ofNat 8 (n.val + 1) ≠ 0 := by
  intro h
  have wraps : (n.val + 1) % 2 ^ 8 = 0 := by simpa using congrArg BitVec.toNat h
  omega

/-- Settles O46: both codes are such successors. -/
theorem storageCodesNonzero : Obligations.StorageCodesNonzero :=
  ⟨ofNat_succ_ne_zero Config.errSeekPred, ofNat_succ_ne_zero Config.errWritePred⟩

/-! ## A waiting event is accepted -/

section Events

variable {s : State}

/-- In IDLE with the LINK free, HANDLE_CMD is refused only where it asks for a track of an unmounted drive (R230, U1). -/
theorem execHandleCmd_answers {c1 : Byte} (hc : s.ctl = .idle) (hlink : s.linkSelected = false)
    (hmounted : cmdRd c1 = true ∨ cmdWr c1 = true → (s.drive (cmdSel c1)).present = true) (c2 : Byte) :
    ∃ t, execHandleCmd c1 c2 s = .next t := by
  by_cases hflag : cmdRd c1 = true ∨ cmdWr c1 = true
  · exact ⟨_, exec_handleCmd_of_flag hc hlink (hmounted hflag) hflag c2⟩
  · obtain ⟨hrd, hwr⟩ := not_or.1 hflag
    have hidle : execHandleCmd c1 c2 s = idleCommand (cmdCount c1) s := (if_neg hrd).trans (if_neg hwr)
    exact ⟨_, hidle.trans (exec_idle hc _)⟩

/-- The preconditions U1 and U10 are all that an event in IDLE needs. -/
theorem exec_fetchEvent_answers {e : InEvent} {rest : List InEvent} (hc : s.ctl = .idle)
    (hlink : s.linkSelected = false) (he : s.events = e :: rest) (hok : s.EventOk) :
    ∃ t, exec (fetchEvent e) { s with events := rest } = .next t := by
  rw [State.EventOk, he] at hok
  cases e with
  | command c1 c2 =>
    obtain ⟨t, ht⟩ := execHandleCmd_answers (s := { s with events := rest }) hc hlink hok c2
    exact ⟨t, (exec_decodeCommand c1 c2 _).trans ht⟩
  | mount d f n w => exact ⟨_, (if_neg hok).trans (hostEvent_of_linkFree hc hlink _)⟩
  | unmount d => exact ⟨_, hostEvent_of_linkFree hc hlink _⟩

end Events

/-! ## A running operation goes on -/

section Running

variable {s : State}

/-- A running operation has an image to work on (R28, R170, R190). -/
theorem State.Inv.image?_of_running (hi : s.Inv) (hr : s.ctl.running = true) : ∃ h, s.image? s.sel = some h := by
  have hp := hi.sel_present hr
  obtain ⟨h, hf⟩ := Option.ne_none_iff_exists'.1 ((hi.drives_legal s.sel).has_file hp)
  exact ⟨h, image?_eq_some hp hf⟩

/-- No phase of the reader is refused: the sector it is about to serve is one of a track's eleven (R24, U11). -/
theorem execReadTrack_answers {h : Handle} (hi : s.Inv) (hr : s.ctl.reading = true) (himage : s.image? s.sel = some h) :
    ∃ t, execReadTrack s.sel s = .next t := by
  cases hc : s.ctl with
  | rdEntry => exact ⟨_, execReadTrack_of_entry hi.link_free himage (by rw [hc]; nofun) (by rw [hc]; nofun)⟩
  | rdLoop => exact ⟨_, execReadTrack_of_rdLoop hi.link_free himage hc (hi.reader_sector (.inl hc)).1⟩
  | rdNext => exact ⟨_, execReadTrack_of_rdNext hi.link_free himage hc⟩
  | _ => rw [hc] at hr; cases hr

/-- Every phase of the writer has its move (R197). -/
theorem exists_writeMove (hw : s.ctl.writing = true) (d : DriveIx) (h : Handle) : ∃ t, WriteMove d h s t := by
  cases hc : s.ctl with
  | wrEntry => exact ⟨_, .entry fun _ => hc⟩
  | seekSync => exact ⟨_, .hunt hc⟩
  | header => exact ⟨_, .header hc⟩
  | data => exact ⟨_, .data hc⟩
  | commit => exact ⟨_, .commit hc⟩
  | wrReport => exact ⟨_, .report hc⟩
  | wrExit => exact ⟨_, .exit hc⟩
  | _ => rw [hc] at hw; cases hw

theorem step_answers_of_reading (hi : s.Inv) (hr : s.ctl.reading = true) : ∃ t, step s = .next t := by
  obtain ⟨h, himage⟩ := hi.image?_of_running (by rw [Ctl.running, hr, Bool.true_or])
  obtain ⟨t, ht⟩ := execReadTrack_answers hi hr himage
  have hexec : exec (.readTrack s.sel) s = .next t := ht
  exact ⟨bracketed t, by rw [step_of_reading hr, hexec]; rfl⟩

theorem step_answers_of_writing (hi : s.Inv) (hw : s.ctl.writing = true) : ∃ t, step s = .next t := by
  obtain ⟨h, himage⟩ := hi.image?_of_running (by rw [Ctl.running, hw, Bool.or_true])
  obtain ⟨t, move⟩ := exists_writeMove hw s.sel h
  exact ⟨bracketed t, step_of_writeMove hw hi.link_free himage move⟩

end Running

/-! ## The step -/

/-- Settles O54, phase by phase: between operations the event's preconditions let it through, inside one the invariant
does. -/
theorem stepNeverStops : Obligations.StepNeverStops := by
  intro s hi hevent
  rcases s.ctl.cases_phase with hc | hc | hr | hw
  · cases he : s.events with
    | nil => exact ⟨s, step_of_idle_nil hc he⟩
    | cons e rest =>
      rw [step_of_idle_cons hc he]
      exact exec_fetchEvent_answers hc hi.link_free he (hevent hc)
  · have reported : exec .drvstat s = .next (reportStatus s) := if_neg (by rw [hi.link_free]; nofun)
    exact ⟨_, (step_of_stat hc).trans reported⟩
  · exact step_answers_of_reading hi hr
  · exact step_answers_of_writing hi hw

end Sys2Proof.Machine
end

section
/-! SUPPORT. What power-on leaves, and that the engine's invariant starts there. R41, R280. -/

namespace Sys2Proof.Machine

/-- At power-on the four slots are alike. -/
theorem drive_reset (d : DriveIx) : State.reset.drive d = DriveState.powerOn :=
  Quad.get_eq_of_components (p := (· = DriveState.powerOn)) State.reset.df rfl rfl rfl rfl d

/-- Settles O50: the slots by `drive_reset`, the rest by the reset's own fields. -/
theorem powerOnValues : Obligations.PowerOnValues := by
  refine ⟨fun d => ?_, rfl, rfl, rfl, rfl, rfl⟩
  rw [drive_reset]
  exact ⟨rfl, rfl, rfl⟩

/-- An empty slot is legal whatever its other fields hold: the rest of `Legal` speaks of mounted slots (R26, R41). -/
theorem DriveState.legal_of_status_zero {r : DriveState} (h : r.status = 0) : r.Legal := by
  have absent : ¬r.present = true := by rw [DriveState.present, h]; decide
  have unwritable : ¬r.writable = true := by rw [DriveState.writable, h]; decide
  exact {
    reserved := by rw [h]; rfl
    writable_present := fun hw => absurd hw unwritable
    tracks_pos := fun hp => absurd hp absent
    track_lt := fun hp => absurd hp absent
    has_file := fun hp => absurd hp absent
    cached_sector := fun hp => absurd hp absent }

/-- Settles O51: the reset is in IDLE, with empty slots and an empty store. -/
theorem resetMeetsInvariant : Obligations.ResetMeetsInvariant := by
  refine inv_of_idle rfl rfl reset_store_wf (fun d => ?_) rfl rfl rfl
  rw [drive_reset]
  exact DriveState.legal_of_status_zero rfl

end Sys2Proof.Machine
end

section
/-! SUPPORT. One operation at a time: outside IDLE no waiting event is taken, and none has a step. R290, R291. -/

namespace Sys2Proof.Machine

section Busy

variable {s : State}

theorem startOperation_busy (hc : s.ctl ≠ .idle) (entry : Ctl) (sel : DriveIx) (count : BitVec 2) (tr : Byte) :
    startOperation entry sel count tr s = .refused .busy := if_pos hc

theorem idleCommand_busy (hc : s.ctl ≠ .idle) (count : BitVec 2) : idleCommand count s = .refused .busy := if_pos hc

theorem hostEvent_busy (hc : s.ctl ≠ .idle) (u : State) : hostEvent s u = .refused .busy := if_pos hc

theorem execHandleCmd_busy (hc : s.ctl ≠ .idle) (c1 c2 : Byte) : execHandleCmd c1 c2 s = .refused .busy := by
  unfold execHandleCmd
  split_ifs
  · exact startOperation_busy hc _ _ _ _
  · exact startOperation_busy hc _ _ _ _
  · exact idleCommand_busy hc _

/-- Outside IDLE a step runs an instruction on the queue as it is, and no instruction takes from it. -/
theorem step_events_of_ne_idle {t : State} (hc : s.ctl ≠ .idle) (h : step s = .next t) : t.events = s.events := by
  rcases s.ctl.cases_phase with hidle | hstat | hr | hw
  · exact absurd hidle hc
  · rw [step_of_stat hstat] at h
    exact (exec_portFrame h).events_eq
  · rw [step_of_reading hr] at h
    obtain ⟨u, hu, rfl⟩ := closeBracket_next h
    rw [bracketed_events, (exec_portFrame hu).events_eq]
  · rw [step_of_writing hw] at h
    obtain ⟨u, hu, rfl⟩ := closeBracket_next h
    rw [bracketed_events, (exec_portFrame hu).events_eq]

end Busy

/-- Settles O8: the queue by the port frame of the step's instruction, the refusals guard by guard. -/
theorem noEventOutsideIdle : Obligations.NoEventOutsideIdle := by
  intro s hc
  exact ⟨fun t => step_events_of_ne_idle hc, startOperation_busy hc _, startOperation_busy hc _, idleCommand_busy hc,
    execHandleCmd_busy hc, fun d f n w hn => (if_neg hn).trans (hostEvent_busy hc _), fun d => hostEvent_busy hc _⟩

end Sys2Proof.Machine
end

section
/-! SUPPORT. The loops without a bound: one live-state record that every loop of the engine takes for "go on", and the
turn each loop then makes, back to where it stood. R172 to R175, R191 to R193, R197, R294. -/

namespace Sys2Proof.Machine

/-! ## Turns -/

theorem run_one {s t : State} (h : step s = .next t) : Sys2Proof.core.run 1 s = .next t := by
  have only : Sys2Proof.core.step s = .next t := h
  simp only [Host.Core.run, only]

/-- If a turn of k steps uses up one record and comes back to where it stood, n records give n turns. -/
theorem run_turns {P : State → Prop} {k : Nat} {live : List Byte}
    (turn : ∀ s rest, P s → s.linkIn = live ++ rest →
      ∃ t, Sys2Proof.core.run k s = .next t ∧ P t ∧ t.linkIn = rest)
    (n : Nat) {s : State} (hs : P s) (hin : s.linkIn = (List.replicate n live).flatten) :
    ∃ t, Sys2Proof.core.run (k * n) s = .next t ∧ P t := by
  induction n generalizing s with
  | zero => exact ⟨s, rfl, hs⟩
  | succ n ih =>
    rw [List.replicate_succ, List.flatten_cons] at hin
    obtain ⟨t, hrun, ht, htin⟩ := turn s _ hs hin
    obtain ⟨u, hrun', hu⟩ := ih ht htin
    exact ⟨u, by rw [Nat.mul_succ, Nat.add_comm]; exact run_add hrun hrun', hu⟩

/-- A state of the engine in the loop c, its drive on track tr; in DATA the seek is done. -/
structure State.Looping (c : Ctl) (tr : Byte) (s : State) : Prop where
  inv : s.Inv
  in_loop : s.ctl = c
  track_eq : (s.drive s.sel).track = tr
  sought : c = .data → s.seekDone = true

/-! ## The record -/

/-- The live-state record of a controller that holds on to track tr: RD and WR requested, no word to offer, a
transmission active (R95, R96, R294). -/
def holdingRecord (tr : Byte) : List Byte := [0x03, tr, 0x44, 0x89, 0x80, 0x00]

/-- That record, once a turn for n turns. -/
def holdingSupply (tr : Byte) (n : Nat) : List Byte := (List.replicate n (holdingRecord tr)).flatten

/-! ## The writer's loops -/

/-- The state after a session that read the live state and must poll again. -/
def State.polledAgain (s : State) : State := linkDeselect { openData s with ret := none }

theorem polledAgain_linkIn (s : State) : s.polledAgain.linkIn = s.linkIn.drop 6 := rfl

section Writer

variable {s : State} {d : DriveIx} {tr : Byte} {rest : List Byte}

/-- The live state that the record gives (R96). -/
theorem openData_of_holding (hin : s.linkIn = holdingRecord tr ++ rest) :
    (openData s).lsStatus.getLsbD 1 = true ∧ (openData s).lsTrack = tr ∧ (openData s).lsLen = 0 ∧
      (openData s).lsActive = true := by
  have hlive : received 6 s = holdingRecord tr := received_of_append hin rfl
  have status : (holdingRecord tr).getD 0 0 = 0x03 := rfl
  have lenHigh : (holdingRecord tr).getD 4 0 = 0x80 := rfl
  have lenLow : (holdingRecord tr).getD 5 0 = 0x00 := rfl
  rw [openData_registers, hlive]
  simp only [status, lenHigh, lenLow]
  exact ⟨by decide, rfl, by decide, by decide⟩

/-- The hunt: nothing stops it, and its window has no words (R191). -/
theorem findSyncPoll_of_holding (hin : s.linkIn = holdingRecord (s.drive d).track ++ rest) :
    findSyncPoll d s = s.polledAgain := by
  obtain ⟨hwr, htrack, hlen, hactive⟩ := openData_of_holding hin
  have hunts : ¬HuntStops d (openData s) := by
    rintro (hclear | hother | ⟨-, hidle⟩)
    · exact absurd (hwr.symm.trans hclear) nofun
    · exact hother htrack
    · exact absurd (hactive.symm.trans hidle) nofun
  rw [findSyncPoll, huntWindow_of_not_stops hunts, hlen]
  rfl

theorem headerPoll_of_holding (hin : s.linkIn = holdingRecord tr ++ rest) : headerPoll s = s.polledAgain := by
  obtain ⟨hwr, -, hlen, hactive⟩ := openData_of_holding hin
  rw [headerPoll, headerWindow_of_waiting hwr (by rw [hlen]; decide) hactive]
  rfl

theorem dataPoll_of_holding (hin : s.linkIn = holdingRecord tr ++ rest) : dataPoll s = s.polledAgain := by
  obtain ⟨hwr, -, hlen, hactive⟩ := openData_of_holding hin
  rw [dataPoll, dataWindow_of_waiting hwr (by rw [hlen]; decide) hactive]
  rfl

theorem polledAgain_withCtl {c : Ctl} (hc : s.ctl = c) : { s.polledAgain with ctl := c } = s.polledAgain := by
  subst hc; rfl

/-- In each of the writer's three loops the record's move is to poll again (R197). -/
theorem writeMove_of_holding {c : Ctl} (hs : s.Looping c tr) (hloop : c = .seekSync ∨ c = .header ∨ c = .data)
    (hin : s.linkIn = holdingRecord tr ++ rest) (h : Handle) : WriteMove s.sel h s s.polledAgain := by
  have hc := hs.in_loop
  rcases hloop with rfl | rfl | rfl
  · have move := WriteMove.hunt (d := s.sel) (h := h) hc
    rwa [findSyncPoll_of_holding (by rw [hs.track_eq]; exact hin), afterHunt_of_none rfl, polledAgain_withCtl hc]
      at move
  · have move := WriteMove.header (d := s.sel) (h := h) hc
    rwa [headerPoll_of_holding hin, afterHeader_of_none _ rfl, polledAgain_withCtl hc] at move
  · have move := WriteMove.data (d := s.sel) (h := h) hc
    rwa [dataStagePoll, if_pos (hs.sought rfl), dataPoll_of_holding hin, afterData_of_none rfl,
      polledAgain_withCtl hc] at move

/-- A turn of one of the writer's loops: one step. -/
theorem State.Looping.writer_turn {c : Ctl} (hs : s.Looping c tr) (hloop : c = .seekSync ∨ c = .header ∨ c = .data)
    (hin : s.linkIn = holdingRecord tr ++ rest) :
    ∃ t, Sys2Proof.core.run 1 s = .next t ∧ t.Looping c tr ∧ t.linkIn = rest := by
  have hw : s.ctl.writing = true := by rw [hs.in_loop]; rcases hloop with rfl | rfl | rfl <;> rfl
  have hne : s.ctl ≠ .idle := by rintro hidle; rw [hidle] at hw; cases hw
  obtain ⟨h, hi⟩ := hs.inv.image?_of_running (running_of_writing hw)
  have hstep : step s = .next s.polledAgain := by
    rw [step_of_writeMove hw hs.inv.link_free hi (writeMove_of_holding hs hloop hin h)]
    exact congrArg Host.Outcome.next (bracketed_of_ne hne)
  refine ⟨s.polledAgain, run_one hstep, ⟨stepKeepsInvariant _ _ hs.inv hstep, hs.in_loop, hs.track_eq, hs.sought⟩, ?_⟩
  rw [polledAgain_linkIn, hin]
  rfl

end Writer

/-! ## The reader's loop -/

section Reader

variable {h : Handle} {s : State} {tr : Byte} {rest : List Byte}

/-- On a mounted drive the record, which names the drive's own track, asks to go on serving it (R172 to R174). -/
theorem wantsTrack_of_holding {d : DriveIx} (hp : (s.drive d).present = true) (hlegal : (s.drive d).Legal)
    (hin : s.linkIn = holdingRecord (s.drive d).track ++ rest) : wantsTrack d (readPoll d h s) = true := by
  have hn : (s.drive d).tracks ≠ 0 := hlegal.tracks_pos hp
  refine wantsTrack_of_linkIn hn hin (by decide) ?_
  rw [← clampTrack_eq_min _ hn, clampTrack_of_lt (hlegal.track_lt hp)]

theorem step_of_rdNext_advance (hlink : s.linkSelected = false) (hi : s.image? s.sel = some h) (hc : s.ctl = .rdNext)
    (hwants : wantsTrack s.sel s = true) : step s = .next (readAdvance s.sel h s) := by
  refine step_of_execReadTrack (by rw [hc]; rfl) ((execReadTrack_of_rdNext hlink hi hc).trans ?_) ?_
  · rw [readNext, if_pos hwants]
  · rw [readAdvance_ctl]; nofun

theorem advanced_track (h : Handle) (s : State) :
    ((s.advanced h).drive (s.advanced h).sel).track = (s.drive s.sel).track := by
  obtain ⟨sec, hdrive⟩ := readAdvance_drive s.sel h (s.served h)
  rw [State.advanced, readAdvance_sel, s.served_sel, hdrive, s.served_drive]

/-- A turn of the reader's loop: the sector served, then the advance. -/
theorem State.Looping.reader_turn (hs : s.Looping .rdLoop tr) (hin : s.linkIn = holdingRecord tr ++ rest) :
    ∃ t, Sys2Proof.core.run 2 s = .next t ∧ t.Looping .rdLoop tr ∧ t.linkIn = rest := by
  have hr : s.ctl.running = true := by rw [hs.in_loop]; rfl
  obtain ⟨h, hi⟩ := hs.inv.image?_of_running hr
  have hwants : wantsTrack s.sel (s.served h) = true := by
    rw [State.served, wantsTrack_readServe]
    exact wantsTrack_of_holding (hs.inv.sel_present hr) (hs.inv.drives_legal s.sel) (by rw [hs.track_eq]; exact hin)
  have hserve : step s = .next (s.served h) :=
    step_of_rdLoop hs.inv.link_free hi hs.in_loop (hs.inv.reader_sector (.inl hs.in_loop)).1
  have himage : (s.served h).image? (s.served h).sel = some h := by
    rw [s.served_sel, ← hi, State.image?, State.image?, s.served_drive]
  have hadvance : step (s.served h) = .next (s.advanced h) := by
    rw [step_of_rdNext_advance rfl himage rfl (by rw [s.served_sel]; exact hwants), s.served_sel]
    rfl
  have hinv : (s.advanced h).Inv := stepKeepsInvariant _ _ (stepKeepsInvariant _ _ hs.inv hserve) hadvance
  refine ⟨s.advanced h, run_two hserve hadvance,
    ⟨hinv, readAdvance_ctl _ _ _, (advanced_track h s).trans hs.track_eq, nofun⟩, ?_⟩
  rw [s.advanced_linkIn, hin]
  rfl

end Reader

/-! ## Every loop -/

/-- What the controller will answer is no part of the invariant. -/
theorem State.Inv.withLinkIn {s : State} (hi : s.Inv) (l : List Byte) : ({ s with linkIn := l } : State).Inv :=
  ⟨hi.link_free, hi.store_wf, hi.drives_legal, hi.led_running, hi.sel_present, hi.error_zero, hi.reader_sector,
    hi.writer_cache, hi.writer_header, hi.writer_cursor, hi.seek_mark⟩

/-- A loop whose turn the holding record brings back goes on for n turns if that record is supplied n times. -/
theorem exists_supply_of_turn {s : State} {c : Ctl} {k : Nat} (hs : s.Looping c (s.drive s.sel).track)
    (turn : ∀ u rest, u.Looping c (s.drive s.sel).track → u.linkIn = holdingRecord (s.drive s.sel).track ++ rest →
      ∃ t, Sys2Proof.core.run k u = .next t ∧ t.Looping c (s.drive s.sel).track ∧ t.linkIn = rest) (n : Nat) :
    ∃ (l : List Byte) (t : State), Sys2Proof.core.run (k * n) { s with linkIn := l } = .next t ∧ t.ctl = c := by
  have start : ({ s with linkIn := holdingSupply (s.drive s.sel).track n } : State).Looping c (s.drive s.sel).track :=
    ⟨hs.inv.withLinkIn _, hs.in_loop, rfl, hs.sought⟩
  obtain ⟨t, hrun, ht⟩ := run_turns turn n start rfl
  exact ⟨_, t, hrun, ht.in_loop⟩

/-- One of the writer's loops under the holding record, a step a turn. -/
theorem exists_supply_writer {s : State} {c : Ctl} (hs : s.Looping c (s.drive s.sel).track)
    (hloop : c = .seekSync ∨ c = .header ∨ c = .data) (n : Nat) :
    ∃ (l : List Byte) (t : State), Sys2Proof.core.run n { s with linkIn := l } = .next t ∧ t.ctl = c := by
  have hturns := exists_supply_of_turn hs (fun _ _ hu => hu.writer_turn hloop) n
  rwa [Nat.one_mul] at hturns

/-- Settles O60: the same record in every loop, by induction on the turns. -/
theorem loopsHaveNoBound : Obligations.LoopsHaveNoBound := by
  intro n s hi
  refine ⟨fun hc => ?hunt, fun hc => ?header, fun hc hsought => ?data, fun hc => ?reader⟩
  case hunt => exact exists_supply_writer ⟨hi, hc, rfl, nofun⟩ (.inl rfl) n
  case header => exact exists_supply_writer ⟨hi, hc, rfl, nofun⟩ (.inr (.inl rfl)) n
  case data => exact exists_supply_writer ⟨hi, hc, rfl, fun _ => hsought⟩ (.inr (.inr rfl)) n
  case reader => exact exists_supply_of_turn ⟨hi, hc, rfl, nofun⟩ (fun _ _ hu => hu.reader_turn) n

end Sys2Proof.Machine
end
